-- ==== Sys2Proof/Word.lean ====
section
/-! DEFINITION. The word types of the block (spec 00_scope.md R6, R11). Every value is unsigned; bit 0 is the least significant. -/

namespace Sys2Proof

/-- A host-visible register or a command word: 32 bits (R6, R43). -/
abbrev Word := BitVec 32

/-- One byte of the transmit buffer (R41), or one color channel (R6). -/
abbrev Byte := BitVec 8

/-- A serial nibble: the four serial bits of one protocol bit (R100, R140). -/
abbrev Nibble := BitVec 4

/-- A color `{r, g, b}`: red in bits 23:16, green in 15:8, blue in 7:0 (R40, R45). -/
abbrev Color := BitVec 24

/-- An LED index: the width of `idx` (R34) and of the `INDEX` field (R101). -/
abbrev Index := BitVec 16

/-- `bus_addr`, the word offset `[4:2]` within the register window (R51). -/
abbrev BusAddr := BitVec 3

end Sys2Proof
end

