-- ==== Sys2Proof/Config.lean ====
section
/-! DEFINITION. The elaboration parameters (spec 00_scope.md R6, 92_eei_decisions.md D37) and the free values. -/

namespace Sys2Proof

/-- A positive rate, `(numPred + 1) / (denPred + 1)`: every value of the type is a legal value (`> 0`, R6).
DESIGN CHOICE (log 1): a rate is a positive rational number. -/
structure Rate where
  numPred : Nat
  denPred : Nat
deriving DecidableEq, Repr, Inhabited

/-- The numerator, at least 1. -/
def Rate.num (r : Rate) : Nat := r.numPred + 1

/-- The denominator, at least 1. -/
def Rate.den (r : Rate) : Nat := r.denPred + 1

/-- The rate as a number. -/
def Rate.value (r : Rate) : Rat := mkRat r.num r.den

/-- The rate with the value of a positive number. -/
def Rate.ofRat (q : Rat) : Rate := { numPred := q.num.toNat - 1, denPred := q.den - 1 }

/-- The elaboration parameters of one block (R6). The two counts are held less one, so that every value of the
type is a legal value of the spec (`N_LEDS` in 1 .. 65535, `T_RESET_TICKS` in 1 .. 2^32-1, D3, D4) and the illegal
elaborations of U15 cannot be written. -/
structure Params where
  /-- `N_LEDS - 1`, the index of the last LED. -/
  lastLed : Fin 65535
  /-- `T_RESET_TICKS - 1`, the value the delay states load into `dly` (R33). -/
  lastTick : Fin 4294967295
  /-- `REG_BASE / 32`: the register window is 32-byte aligned. -/
  regPage : Nat
  /-- `BUF_BASE`, the value of the port `tx_src`. -/
  bufBase : Word
  /-- `LANE_DR`, the value of the port `tx_dst`. -/
  laneDr : Word
  /-- `F_CLK` in hertz. -/
  fClkRate : Rate
  /-- `LANE_BITRATE` in bits per second. -/
  laneRate : Rate
  /-- `LANE_MODE`, lane-defined and not observed by the block. -/
  laneMode : Nat
deriving DecidableEq, Repr

/-- `N_LEDS` (R6). -/
def Params.nLeds (p : Params) : Nat := p.lastLed.val + 1

/-- `T_RESET_TICKS` (R6). -/
def Params.tResetTicks (p : Params) : Nat := p.lastTick.val + 1

/-- `BUF_LEN = 12 * N_LEDS` (R6, R41). -/
def Params.bufLen (p : Params) : Nat := 12 * p.nLeds

/-- `REG_BASE` (R6, R43). -/
def Params.regBase (p : Params) : Nat := 32 * p.regPage

/-- `F_CLK` (R6). -/
def Params.fClk (p : Params) : Rat := p.fClkRate.value

/-- `LANE_BITRATE` (R6). -/
def Params.laneBitrate (p : Params) : Rat := p.laneRate.value

/-- Elaboration: the parameters from the spec's own numbers, or no block at all where a value is not legal (U15). -/
def Params.elaborate (nLeds tResetTicks regBase : Nat) (bufBase laneDr : Word) (fClk laneBitrate : Rat)
    (laneMode : Nat) : Option Params :=
  if h : 1 ≤ nLeds ∧ nLeds ≤ 65535 ∧ 1 ≤ tResetTicks ∧ tResetTicks ≤ 4294967295 ∧ regBase % 32 = 0 ∧ 0 < fClk
      ∧ 0 < laneBitrate then
    some
      { lastLed := ⟨nLeds - 1, by omega⟩
        lastTick := ⟨tResetTicks - 1, by omega⟩
        regPage := regBase / 32
        bufBase := bufBase
        laneDr := laneDr
        fClkRate := Rate.ofRat fClk
        laneRate := Rate.ofRat laneBitrate
        laneMode := laneMode }
  else none

/-! The parameters the spec leaves OPEN (R6, D37): constants with no body, so that a statement about the machine
after reset holds for every legal value. -/

opaque Config.lastLed : Fin 65535
opaque Config.lastTick : Fin 4294967295
opaque Config.regPage : Nat
opaque Config.bufBase : Word
opaque Config.laneDr : Word
opaque Config.fClkRate : Rate
opaque Config.laneRate : Rate
opaque Config.laneMode : Nat

/-- The parameters of the block that `State.reset` is the reset state of (log 1). -/
def Config.params : Params :=
  { lastLed := Config.lastLed
    lastTick := Config.lastTick
    regPage := Config.regPage
    bufBase := Config.bufBase
    laneDr := Config.laneDr
    fClkRate := Config.fClkRate
    laneRate := Config.laneRate
    laneMode := Config.laneMode }

/-- FREE VALUE (R52, U4; log 5): the byte that cell `k` of `buf` holds, in power-up epoch `e`, before anything has
written it. -/
opaque Config.freeBufByte : Nat → Nat → Byte

/-- FREE VALUE (R231 item 6, U6; log 2): whether the lane raises `tx_done` in period `t`, where the period's inputs
leave that to the lane. -/
opaque Config.freeTxDone : Nat → Bool

/-- FREE VALUE (R107; log 6): whether the host lets period `t` pass between two reads of a `POLL`, where the period's
inputs leave that to the host. -/
opaque Config.freePollIdle : Nat → Bool

end Sys2Proof
end

