-- ==== Sys2Proof/Syntax.lean ====
section
/-! DEFINITION. The instructions: one constructor per row of spec/opcode_table.json (30_encoding.md R103 to R105). -/

namespace Sys2Proof

/-- A host access (the bus transaction codes of R103) or a command (the command words of R104 and R105).
A write access carries its 32 bits of write data. -/
inductive Instr where
  /-- `RD_CMD` (R181). -/
  | rdCmd
  /-- `RD_COLOR` (R182). -/
  | rdColor
  /-- `RD_STATUS` (R183). -/
  | rdStatus
  /-- `RD_NLEDS` (R184). -/
  | rdNleds
  /-- `RD_RESET_TICKS` (R185). -/
  | rdResetTicks
  /-- `RD_TIMEOUT` (R186). -/
  | rdTimeout
  /-- `RD_RSVD` (R187), at bus address 6 (offset 0x18) or 7 (offset 0x1C). -/
  | rdRsvd (a : BusAddr)
  /-- `WR_CMD` (R194): `w` is the command word, legal or not. -/
  | wrCmd (w : Word)
  /-- `WR_COLOR` (R188). -/
  | wrColor (w : Word)
  /-- `WR_STATUS` (R190). -/
  | wrStatus (w : Word)
  /-- `WR_NLEDS` (R191). -/
  | wrNleds (w : Word)
  /-- `WR_RESET_TICKS` (R192). -/
  | wrResetTicks (w : Word)
  /-- `WR_TIMEOUT` (R189). -/
  | wrTimeout (w : Word)
  /-- `WR_RSVD` (R193), at bus address 6 or 7. -/
  | wrRsvd (a : BusAddr) (w : Word)
  /-- `NOP` (R195). -/
  | cmdNop
  /-- `SET` (R196) with its `INDEX` field. -/
  | cmdSet (index : Index)
  /-- `FILL` (R197). -/
  | cmdFill
  /-- `SHOW` (R198). -/
  | cmdShow
  /-- `RECOVER` (R199). -/
  | cmdRecover
  /-- `CLRERR` (R200). -/
  | cmdClrerr
  /-- `ILLEGAL_OP_6_7` (R105, R194): the whole word, with `OP` 6 or 7. -/
  | illegalOp67 (w : Word)
  /-- `ILLEGAL_OP_8_F` (R105, R194): the whole word, with `OP` 8 to F. -/
  | illegalOp8F (w : Word)
deriving DecidableEq, Repr

end Sys2Proof
end

