-- ==== Sys2Proof/WellFormed.lean ====
section
/-! DEFINITION. Which terms of `Instr` an encoding exists for (30_encoding.md R103, R105). -/

namespace Sys2Proof

/-- The operand checks: a reserved access is at bus address 6 or 7 (`RD_RSVD` and `WR_RSVD`, R103), and the word of an
illegal-opcode row has the opcode bits of its row (R105). Every other operand is legal at every value of its type. -/
def Instr.wellFormed : Instr → Bool
  | .rdCmd => true
  | .rdColor => true
  | .rdStatus => true
  | .rdNleds => true
  | .rdResetTicks => true
  | .rdTimeout => true
  | .rdRsvd a => a == 6#3 || a == 7#3
  | .wrCmd _ => true
  | .wrColor _ => true
  | .wrStatus _ => true
  | .wrNleds _ => true
  | .wrResetTicks _ => true
  | .wrTimeout _ => true
  | .wrRsvd a _ => a == 6#3 || a == 7#3
  | .cmdNop => true
  | .cmdSet _ => true
  | .cmdFill => true
  | .cmdShow => true
  | .cmdRecover => true
  | .cmdClrerr => true
  | .illegalOp67 w => w &&& 0xE0000000#32 == 0x60000000#32
  | .illegalOp8F w => w &&& 0x80000000#32 == 0x80000000#32

end Sys2Proof
end

