-- ==== Sys2Proof/Decode.lean ====
section
/-! DEFINITION. The decoder, total and rejecting by name, and the encoder (30_encoding.md R100 to R105; 20_memory.md R75). -/

namespace Sys2Proof

/-- One access a host attempts at the register window, as the platform's bus carries it (20_memory.md R75).
`offset` is the address less `REG_BASE`; `width` is in bits; `beats` is 1 for a single access and more for a burst.
`wdata` is `bus_wdata` and means nothing on a read. -/
structure BusAccess where
  write : Bool
  offset : Nat
  width : Nat
  beats : Nat
  wdata : Word
deriving DecidableEq, Repr

/-- Why an access is not conforming (R75): the block defines no behaviour for it. -/
inductive AccessFlaw where
  /-- 8-bit, 16-bit or any width but 32. -/
  | width
  /-- A burst, or no beat at all. -/
  | burst
  /-- Outside offsets 0x00 to 0x1F. -/
  | outsideWindow
  /-- An offset that is no multiple of 4. -/
  | misaligned
deriving DecidableEq, Repr

/-- An encoded instruction, in one of the two formats of the opcode table (R100): a bus transaction code with the
write data beside it, or a command word. -/
inductive Encoded where
  | btc (code : BitVec 4) (wdata : Word)
  | cmdw (w : Word)
deriving DecidableEq, Repr

/-- Why an encoded instruction is no row of the table. -/
inductive DecodeReject where
  /-- A command word with `OP` 0 to 5 and a nonzero bit in a field its row requires to be 0 (R105).
  Written to `CMD` it is an illegal command, which `WR_CMD`'s meaning raises (R194). -/
  | reservedField (w : Word)
deriving DecidableEq, Repr

/-- One row of R103, R104 or R105 as the opcode table gives it. -/
structure Row where
  mnemonic : String
  mask : Word
  pattern : Word
deriving DecidableEq, Repr

/-- `w` matches the row: `(w & mask) == match` (R104). -/
def Row.hits (r : Row) (w : Word) : Bool := w &&& r.mask == r.pattern

/-- The legal command words (R104), row by row. -/
def commandRows : List Row :=
  [ ⟨"NOP", 0xFFFFFFFF#32, 0x00000000#32⟩,
    ⟨"SET", 0xFFFF0000#32, 0x10000000#32⟩,
    ⟨"FILL", 0xFFFFFFFF#32, 0x20000000#32⟩,
    ⟨"SHOW", 0xFFFFFFFF#32, 0x30000000#32⟩,
    ⟨"RECOVER", 0xFFFFFFFF#32, 0x40000000#32⟩,
    ⟨"CLRERR", 0xFFFFFFFF#32, 0x50000000#32⟩ ]

/-- The opcode-table row of an instruction. The mask and pattern of a bus transaction code are those of its 4 bits. -/
def rowOf : Instr → Row
  | .rdCmd => ⟨"RD_CMD", 0xF#32, 0x0#32⟩
  | .rdColor => ⟨"RD_COLOR", 0xF#32, 0x1#32⟩
  | .rdStatus => ⟨"RD_STATUS", 0xF#32, 0x2#32⟩
  | .rdNleds => ⟨"RD_NLEDS", 0xF#32, 0x3#32⟩
  | .rdResetTicks => ⟨"RD_RESET_TICKS", 0xF#32, 0x4#32⟩
  | .rdTimeout => ⟨"RD_TIMEOUT", 0xF#32, 0x5#32⟩
  | .rdRsvd _ => ⟨"RD_RSVD", 0xE#32, 0x6#32⟩
  | .wrCmd _ => ⟨"WR_CMD", 0xF#32, 0x8#32⟩
  | .wrColor _ => ⟨"WR_COLOR", 0xF#32, 0x9#32⟩
  | .wrStatus _ => ⟨"WR_STATUS", 0xF#32, 0xA#32⟩
  | .wrNleds _ => ⟨"WR_NLEDS", 0xF#32, 0xB#32⟩
  | .wrResetTicks _ => ⟨"WR_RESET_TICKS", 0xF#32, 0xC#32⟩
  | .wrTimeout _ => ⟨"WR_TIMEOUT", 0xF#32, 0xD#32⟩
  | .wrRsvd _ _ => ⟨"WR_RSVD", 0xE#32, 0xE#32⟩
  | .cmdNop => ⟨"NOP", 0xFFFFFFFF#32, 0x00000000#32⟩
  | .cmdSet _ => ⟨"SET", 0xFFFF0000#32, 0x10000000#32⟩
  | .cmdFill => ⟨"FILL", 0xFFFFFFFF#32, 0x20000000#32⟩
  | .cmdShow => ⟨"SHOW", 0xFFFFFFFF#32, 0x30000000#32⟩
  | .cmdRecover => ⟨"RECOVER", 0xFFFFFFFF#32, 0x40000000#32⟩
  | .cmdClrerr => ⟨"CLRERR", 0xFFFFFFFF#32, 0x50000000#32⟩
  | .illegalOp67 _ => ⟨"ILLEGAL_OP_6_7", 0xE0000000#32, 0x60000000#32⟩
  | .illegalOp8F _ => ⟨"ILLEGAL_OP_8_F", 0x80000000#32, 0x80000000#32⟩

/-! ### Decoding -/

/-- A bus transaction code `{WE, A[2:0]}` and the write data beside it (R103). Every code has a row. -/
def decodeBtc (code : BitVec 4) (w : Word) : Instr :=
  let a : BusAddr := code.extractLsb' 0 3
  if code = 0b0000#4 then .rdCmd
  else if code = 0b0001#4 then .rdColor
  else if code = 0b0010#4 then .rdStatus
  else if code = 0b0011#4 then .rdNleds
  else if code = 0b0100#4 then .rdResetTicks
  else if code = 0b0101#4 then .rdTimeout
  else if code = 0b0110#4 then .rdRsvd a
  else if code = 0b0111#4 then .rdRsvd a
  else if code = 0b1000#4 then .wrCmd w
  else if code = 0b1001#4 then .wrColor w
  else if code = 0b1010#4 then .wrStatus w
  else if code = 0b1011#4 then .wrNleds w
  else if code = 0b1100#4 then .wrResetTicks w
  else if code = 0b1101#4 then .wrTimeout w
  else .wrRsvd a w

/-- A command word by the match and mask columns of R104 and of R105's first item; every other word is rejected. -/
def decodeCommand (w : Word) : Except DecodeReject Instr :=
  if w &&& 0xFFFFFFFF#32 = 0x00000000#32 then .ok .cmdNop
  else if w &&& 0xFFFF0000#32 = 0x10000000#32 then .ok (.cmdSet (w.extractLsb' 0 16))
  else if w &&& 0xFFFFFFFF#32 = 0x20000000#32 then .ok .cmdFill
  else if w &&& 0xFFFFFFFF#32 = 0x30000000#32 then .ok .cmdShow
  else if w &&& 0xFFFFFFFF#32 = 0x40000000#32 then .ok .cmdRecover
  else if w &&& 0xFFFFFFFF#32 = 0x50000000#32 then .ok .cmdClrerr
  else if w &&& 0xE0000000#32 = 0x60000000#32 then .ok (.illegalOp67 w)
  else if w &&& 0x80000000#32 = 0x80000000#32 then .ok (.illegalOp8F w)
  else .error (.reservedField w)

/-- The decoder of the two formats. -/
def decode : Encoded → Except DecodeReject Instr
  | .btc code w => .ok (decodeBtc code w)
  | .cmdw w => decodeCommand w

/-- What keeps an access from being conforming (R75), or nothing. -/
def BusAccess.flaw (a : BusAccess) : Option AccessFlaw :=
  if a.width ≠ 32 then some .width
  else if a.beats ≠ 1 then some .burst
  else if 32 ≤ a.offset then some .outsideWindow
  else if a.offset % 4 ≠ 0 then some .misaligned
  else none

/-- The bus transaction code `{WE, A[2:0]}` with `A = offset[4:2]` (R100). -/
def BusAccess.code (a : BusAccess) : BitVec 4 :=
  (if a.write then 1#1 else 0#1) ++ BitVec.ofNat 3 (a.offset / 4)

/-- A host access decoded: every conforming access has a row of R103, every other one is rejected by name. -/
def decodeAccess (a : BusAccess) : Except AccessFlaw Instr :=
  match a.flaw with
  | some f => .error f
  | none => .ok (decodeBtc a.code a.wdata)

/-! ### Encoding -/

/-- The encoding of a well-formed instruction (R101, R103 to R105). A read carries no data; the field is 0. -/
def encode : Instr → Encoded
  | .rdCmd => .btc 0b0000#4 0#32
  | .rdColor => .btc 0b0001#4 0#32
  | .rdStatus => .btc 0b0010#4 0#32
  | .rdNleds => .btc 0b0011#4 0#32
  | .rdResetTicks => .btc 0b0100#4 0#32
  | .rdTimeout => .btc 0b0101#4 0#32
  | .rdRsvd a => .btc (0#1 ++ a) 0#32
  | .wrCmd w => .btc 0b1000#4 w
  | .wrColor w => .btc 0b1001#4 w
  | .wrStatus w => .btc 0b1010#4 w
  | .wrNleds w => .btc 0b1011#4 w
  | .wrResetTicks w => .btc 0b1100#4 w
  | .wrTimeout w => .btc 0b1101#4 w
  | .wrRsvd a w => .btc (1#1 ++ a) w
  | .cmdNop => .cmdw (0x0#4 ++ 0#12 ++ 0#16)
  | .cmdSet index => .cmdw (0x1#4 ++ 0#12 ++ index)
  | .cmdFill => .cmdw (0x2#4 ++ 0#12 ++ 0#16)
  | .cmdShow => .cmdw (0x3#4 ++ 0#12 ++ 0#16)
  | .cmdRecover => .cmdw (0x4#4 ++ 0#12 ++ 0#16)
  | .cmdClrerr => .cmdw (0x5#4 ++ 0#12 ++ 0#16)
  | .illegalOp67 w => .cmdw w
  | .illegalOp8F w => .cmdw w

/-- The word of an encoded instruction that the opcode table numbers: the 4-bit code, or the command word. -/
def Encoded.tableWord : Encoded → Word
  | .btc code _ => code.zeroExtend 32
  | .cmdw w => w

/-- A conforming access that carries an encoded instruction to the block: a bus transaction code is the access itself,
a command word is the data of a write to `CMD` (R100, R103). -/
def Encoded.access : Encoded → BusAccess
  | .btc code w =>
    { write := code.getLsbD 3, offset := 4 * (code.extractLsb' 0 3).toNat, width := 32, beats := 1, wdata := w }
  | .cmdw w => { write := true, offset := 0, width := 32, beats := 1, wdata := w }

/-! ### The opcode table's own numbering of bits -/

/-- The table's two formats told apart by their number of bits (log 16): a bus transaction code has 4 bits (8 in whole
bytes) and leaves the write data 0; a command word has 32. -/
def encodedOfTable (nbits w : Nat) : Option Encoded :=
  if nbits = 8 ∨ nbits = 4 then
    if w < 16 then some (.btc (BitVec.ofNat 4 w) 0#32) else none
  else if nbits = 32 then
    if w < 4294967296 then some (.cmdw (BitVec.ofNat 32 w)) else none
  else none

/-- The instruction the decoder reads from a word numbered as spec/opcode_table.json numbers it. -/
def decodeTableWord (nbits w : Nat) : Option Instr :=
  match encodedOfTable nbits w with
  | none => none
  | some e =>
    match decode e with
    | .ok i => some i
    | .error _ => none

end Sys2Proof
end

