-- ==== Sys2Proof/Machine/State.lean ====
section
/-! DEFINITION. The state of the machine: the block's own registers and memories (10_state.md R30 to R53), and the world
it is stepped in: the HOST, the LANE and the observation (00_scope.md R8 to R10). Plain data. -/

namespace Sys2Proof.Machine

/-! ### The block -/

/-- `state` (R32). The unused values 5 and 6 are never reached and have no constructor (log 12). -/
inductive FrameState where
  | idle
  | preDelay
  | filling
  | transmitting
  | postDelay
  | fault
deriving DecidableEq, Repr

/-- The four sticky error flags (R37). -/
structure ErrFlags where
  /-- `err_ill` -/
  ill : Bool
  /-- `err_rng` -/
  rng : Bool
  /-- `err_rej` -/
  rej : Bool
  /-- `err_to` -/
  tmo : Bool
deriving DecidableEq, Repr

/-- The error-set requests and the clear request of one edge (41_host_commands.md, R270, R272). -/
structure Requests where
  ill : Bool := false
  rng : Bool := false
  rej : Bool := false
  tmo : Bool := false
  clr : Bool := false
deriving DecidableEq, Repr

/-- The error causes (R271). -/
inductive ErrorCause where
  | illegalCommand
  | indexRange
  | showRejected
  | txTimeout
deriving DecidableEq, Repr

/-- The bytes of `buf` that have been written since power-up, by buffer index, in one canonical form: indexes strictly
rising. A byte not listed has been written by nothing and has no value of its own (R52, U4; log 5). -/
abbrev Memory := List Host.Cell

/-- The updates `Uf` of the frame state machine at one edge (R221): a field left `none` keeps its value. -/
structure FsmUpdate where
  fsm : Option FrameState := none
  dly : Option Word := none
  idx : Option Index := none
  toCnt : Option Word := none
  armed : Option Bool := none
  bufWrites : List Host.Cell := []
  setTo : Bool := false
deriving DecidableEq, Repr

/-- The lane-interface outputs (R51, R230). -/
structure LaneOut where
  txStart : Bool
  txSrc : Word
  txDst : Word
  txCount : Word
  txDir : Bool
  txSrcInc : Bool
  txDstInc : Bool
deriving DecidableEq, Repr

/-! ### The inputs of a period -/

/-- A one-bit input of a period: low, high, or left to the agent that drives it, which draws it freely (log 2, 6). -/
inductive Draw where
  | low
  | high
  | drawn
deriving DecidableEq, Repr

/-- What happens around the block in one `clk` period and at the edge that ends it, the HOST's access apart
(R9, R51, R231, R285, R307). -/
structure Period where
  /-- the level of `rst` at the edge (R300) -/
  rst : Bool := false
  /-- the level of `tx_done` at the edge (R231) -/
  tx : Draw := .drawn
  /-- the system resets the lane, or finds it idle, through the lane's own interface (R307) -/
  laneReset : Bool := false
  /-- the clock or the power is removed in this period, which then has no edge (R285) -/
  powerLoss : Bool := false
  /-- the host idles in this period if its line is a `POLL` (R107) -/
  pollIdle : Draw := .drawn
deriving DecidableEq, Repr

/-! ### The HOST -/

/-- The registers of the window by name (R43, R107). -/
inductive HostReg where
  | cmd
  | color
  | status
  | nleds
  | resetTicks
  | timeout
  | rsvd18
  | rsvd1C
deriving DecidableEq, Repr

/-- A line of a host program (R107). `bus` presents one access as it stands, a `WR` among them. -/
inductive HostLine where
  | bus (a : BusAccess)
  | rd (r : HostReg) (name : String)
  | poll (r : HostReg) (mask val : Word)
  | idleFor (n : Nat)
deriving DecidableEq, Repr

/-- The pseudo-instructions of R108. -/
inductive Pseudo where
  | nop
  | setLed (i : Index) (r g b : Byte)
  | setI (i : Index)
  | fillAll (r g b : Byte)
  | showFrame
  | recover
  | clrErr
  | waitDone
  | showSync (name : String)
deriving DecidableEq, Repr

/-- What a read of `STATUS` tells of a `show` that was accepted (R237). -/
inductive ShowResult where
  | inProgress
  | succeeded
  | timedOut
deriving DecidableEq, Repr

/-- The sticky marks of a run that leaves what the spec admits (93_implementation_defined.md, treatment `fault` and
`refuse` with "a whole-state mark"; log 8, 9). The block never reads them. -/
structure Marks where
  /-- a `RECOVER` took effect while the lane was still running a transfer (D18, R199) -/
  recoverBusy : Bool
  /-- a `SHOW` was accepted while the lane was still running a transfer (R307, U10) -/
  showBusy : Bool
  /-- the lane raised `tx_done` with no transfer outstanding (R231 items 2 and 3, U11) -/
  laneBroken : Bool
deriving DecidableEq, Repr

/-- The agents around the block and the observation a claim is stated through (R8, R10). -/
structure World where
  /-- a reset edge has been seen since the clock and the power came (R300, U5) -/
  up : Bool
  /-- the inputs of the coming periods, this period's first (log 2) -/
  env : List Period
  /-- the HOST's remaining program, this period's line first (R107; log 3) -/
  prog : List HostLine
  /-- the names `RD <reg> -> <name>` has bound, newest first (R107) -/
  vars : List (String × Word)
  /-- the values the host has read, newest first (R10) -/
  reads : List Word
  /-- the lane is running a transfer: the lane-busy ghost bit of U10 -/
  laneBusy : Bool
  /-- the frames delivered, newest first (R10, R232) -/
  frames : List (List Byte)
  marks : Marks
  /-- the model's own: counts periods, the argument of the free draws (log 2, 6) -/
  tick : Nat
  /-- the model's own: counts power-ups, an argument of the free contents of `buf` (log 5) -/
  epoch : Nat
deriving DecidableEq, Repr

/-- The machine. All fields but `params` and `world` are the block's own state. -/
structure State where
  /-- the elaboration parameters: constants of the block (R6; log 1) -/
  params : Params
  /-- `state` (R32) -/
  fsm : FrameState
  /-- `dly` (R33) -/
  dly : Word
  /-- `idx` (R34) -/
  idx : Index
  /-- `to_cnt` (R35) -/
  toCnt : Word
  /-- `armed` (R36) -/
  armed : Bool
  /-- the error flags (R37) -/
  err : ErrFlags
  /-- `COLOR` (R45) -/
  color : Color
  /-- `TIMEOUT` (R49) -/
  timeout : Word
  /-- `table` (R40), entry 0 first -/
  table : List Color
  /-- `buf` (R41), by buffer index -/
  buf : Memory
  /-- the agents around the block and the observation (R8, R10) -/
  world : World
deriving DecidableEq, Repr

/-- The machine stops with a fault. -/
inductive Fault where
  /-- Raised by the step in `FILLING` when `idx` is no index of the table. No run from reset reaches such a state
  (R31: `idx` stops at `N_LEDS - 1`), and the spec gives no table entry there. Safe (log 13). -/
  | fillOutsideTable
deriving DecidableEq, Repr

/-- The model has no meaning for what the step meets. -/
inductive Refusal where
  /-- An instruction with no meaning yet, by its mnemonic. Raised by `exec`'s arms only; no arm raises it. Safe. -/
  | notModelled (mnemonic : String)
  /-- Raised by the step when the host's access is not an aligned single 32-bit access within the window, at any edge (R75, U7:
  "A model refuses a program that makes one"). Safe (log 14). -/
  | nonConforming (flaw : AccessFlaw)
  /-- Raised by the step at an edge with `rst = 0` before any reset edge since power-up (R300, U5, U14: "a model must not
  begin a run before one reset edge"). Safe (log 7). -/
  | noResetEdge
deriving DecidableEq, Repr

/-! ### Reset -/

/-- The flags after reset (R52). -/
def ErrFlags.clear : ErrFlags := { ill := false, rng := false, rej := false, tmo := false }

/-- No mark is set. -/
def Marks.clear : Marks := { recoverBusy := false, showBusy := false, laneBroken := false }

/-- The world right after the reset edge that begins a run: nothing observed, the lane idle, no program placed.
DESIGN CHOICE (log 19). -/
def World.initial : World :=
  { up := true, env := [], prog := [], vars := [], reads := [], laneBusy := false, frames := [],
    marks := Marks.clear, tick := 0, epoch := 0 }

/-- A block with the parameters `p` right after the reset edge that begins a run (R52, R300). `buf` has no value of its
own yet. -/
def State.resetWith (p : Params) : State :=
  { params := p, fsm := .idle, dly := 0#32, idx := 0#16, toCnt := 0#32, armed := false, err := ErrFlags.clear,
    color := 0#24, timeout := 0#32, table := List.replicate p.nLeds 0#24, buf := [], world := World.initial }

/-- The machine right after reset, for parameters the spec leaves OPEN (R6, R52). -/
def State.reset : State := State.resetWith Config.params

end Sys2Proof.Machine
end

