-- ==== Sys2Proof/Machine/Flags.lean ====
section
/-! DEFINITION. The error flags, `STATE` and `BUSY`: how they are set and how `STATUS` shows them (10_state.md R32, R37, R46;
60_exceptions.md R270 to R272). -/

namespace Sys2Proof.Machine

/-- The 3-bit encoding of `state` (R32, D14). -/
def FrameState.code : FrameState → BitVec 3
  | .idle => 0#3
  | .preDelay => 1#3
  | .filling => 2#3
  | .transmitting => 3#3
  | .postDelay => 4#3
  | .fault => 7#3

/-- `STATUS.BUSY`: 1 in the four frame states (R46, R183). -/
def FrameState.busy : FrameState → Bool
  | .idle => false
  | .preDelay => true
  | .filling => true
  | .transmitting => true
  | .postDelay => true
  | .fault => false

/-- The code of an error cause (R271). -/
def ErrorCause.code : ErrorCause → Nat
  | .illegalCommand => 1
  | .indexRange => 2
  | .showRejected => 3
  | .txTimeout => 4

/-- The flag's bit position in `STATUS`: the code plus 7 (R271). -/
def ErrorCause.statusBit (c : ErrorCause) : Nat := c.code + 7

/-- The flag of an error cause (R271). -/
def ErrFlags.flag (f : ErrFlags) : ErrorCause → Bool
  | .illegalCommand => f.ill
  | .indexRange => f.rng
  | .showRejected => f.rej
  | .txTimeout => f.tmo

/-- `raise <Error>()`: the one set request it makes (R12, R270). -/
def raise : ErrorCause → Requests
  | .illegalCommand => { ill := true }
  | .indexRange => { rng := true }
  | .showRejected => { rej := true }
  | .txTimeout => { tmo := true }

/-- The clear request of `CLRERR` (R200). -/
def clearRequest : Requests := { clr := true }

/-- `s'.err_f = set_f or (s.err_f and not clr)`: a set wins over a clear (R272). -/
def ErrFlags.update (f : ErrFlags) (r : Requests) : ErrFlags :=
  { ill := r.ill || (f.ill && !r.clr)
    rng := r.rng || (f.rng && !r.clr)
    rej := r.rej || (f.rej && !r.clr)
    tmo := r.tmo || (f.tmo && !r.clr) }

/-- One bit widened to a register. -/
def bit32 (b : Bool) : Word := if b then 1#32 else 0#32

/-- The value of `STATUS` (R183). -/
def statusWord (s : State) : Word :=
  s.fsm.code.zeroExtend 32 ||| (bit32 s.fsm.busy <<< 3)
    ||| (bit32 s.err.ill <<< 8) ||| (bit32 s.err.rng <<< 9) ||| (bit32 s.err.rej <<< 10) ||| (bit32 s.err.tmo <<< 11)

end Sys2Proof.Machine
end

