-- ==== Sys2Proof/Machine/Operands.lean ====
section
/-! DEFINITION. The operands of accesses and commands (30_encoding.md R101, R102; 10_state.md R40, R45). -/

namespace Sys2Proof.Machine

/-- `OP`, bits 31:28 of a command word (R101). -/
def opField (w : Word) : BitVec 4 := w.extractLsb' 28 4

/-- `RSVD`, bits 27:16 of a command word (R101). -/
def rsvdField (w : Word) : BitVec 12 := w.extractLsb' 16 12

/-- `INDEX`, bits 15:0 of a command word (R101, R102). -/
def indexField (w : Word) : Index := w.extractLsb' 0 16

/-- Bits 27:0 of a command word, which every command but `SET` requires to be 0 (R105). -/
def lowField (w : Word) : BitVec 28 := w.extractLsb' 0 28

/-- `w[23:0]`: what a write to `COLOR` stores (R45). -/
def colorField (w : Word) : Color := w.extractLsb' 0 24

/-- The color operand of `SET` and `FILL`: the whole `COLOR` register before the command's edge (R102). -/
def colorOperand (s : State) : Color := s.color

/-- `table[i][23:16]` (R40). -/
def red (e : Color) : Byte := e.extractLsb' 16 8

/-- `table[i][15:8]` (R40). -/
def green (e : Color) : Byte := e.extractLsb' 8 8

/-- `table[i][7:0]` (R40). -/
def blue (e : Color) : Byte := e.extractLsb' 0 8

/-- The color `{r, g, b}` (R40, R45). -/
def rgb (r g b : Byte) : Color := r ++ g ++ b

/-- The legality of a command word, by its fields, in every `state` (R194). -/
def legalCommand (w : Word) : Bool :=
  (opField w == 0x1#4 && rsvdField w == 0#12)
    || ((opField w == 0x0#4 || opField w == 0x2#4 || opField w == 0x3#4 || opField w == 0x4#4 || opField w == 0x5#4)
        && lowField w == 0#28)

end Sys2Proof.Machine
end

