-- ==== Sys2Proof/Machine/Ops.lean ====
section
/-! DEFINITION. The named operations over the memories and registers: the buffer's cells, the observation of a read, error
requests, the entry to and the return from `FAULT`, the updates of the frame state machine, the reset edge. -/

namespace Sys2Proof.Machine

/-! ### `buf` (R41, R72) -/

/-- The byte at a buffer index; `none` where nothing has written it since power-up (R52, U4). -/
def Memory.read? : Memory → Nat → Option Byte
  | [], _ => none
  | c :: m, k => if k = c.1 then some c.2 else Memory.read? m k

/-- The buffer with one byte written; the form stays canonical. -/
def Memory.write : Memory → Nat → Byte → Memory
  | [], k, v => [(k, v)]
  | c :: m, k, v =>
    if k < c.1 then (k, v) :: c :: m
    else if k = c.1 then (k, v) :: m
    else c :: Memory.write m k v

/-- The buffer with a list of byte writes done in order. -/
def Memory.writeAll : Memory → List Host.Cell → Memory
  | m, [] => m
  | m, c :: cs => Memory.writeAll (m.write c.1 c.2) cs

/-- The canonical form: indexes strictly rising. -/
abbrev Memory.wf (m : Memory) : Prop := m.Pairwise (fun c d => c.1 < d.1)

/-- The writes of consecutive bytes from index `k` on. -/
def bytesAt : Nat → List Byte → List Host.Cell
  | _, [] => []
  | k, v :: vs => (k, v) :: bytesAt (k + 1) vs

/-! ### Registers -/

/-- `T_RESET_TICKS - 1`: what a delay state loads into `dly` (R33, R228). -/
def dlyLoad (s : State) : Word := BitVec.ofNat 32 s.params.lastTick.val

/-- `state` and `dly` at the entry of a delay state (R228). -/
def State.enterDelay (s : State) (d : FrameState) : State := { s with fsm := d, dly := dlyLoad s }

/-- The flags after an edge's requests (R272). -/
def State.request (s : State) (r : Requests) : State := { s with err := s.err.update r }

/-- The host has read `v` (R10, R180): the block itself is unchanged. -/
def State.pushRead (s : State) (v : Word) : State :=
  { s with world := { s.world with reads := v :: s.world.reads } }

/-- A sticky mark for a `RECOVER` that takes effect while the lane runs (D18). -/
def State.markRecover (s : State) : State :=
  { s with world := { s.world with marks :=
      { s.world.marks with recoverBusy := s.world.marks.recoverBusy || s.world.laneBusy } } }

/-- A sticky mark for a `SHOW` that is accepted while the lane runs (R307). -/
def State.markShow (s : State) : State :=
  { s with world := { s.world with marks :=
      { s.world.marks with showBusy := s.world.marks.showBusy || s.world.laneBusy } } }

/-! ### `FAULT`: what stands nearest to taking a trap and returning from it (R276, R277) -/

/-- The entry to `FAULT`: `state` and the set request of `err_to`, and nothing else (R225, R276). -/
def takeTxTimeout : FsmUpdate := { fsm := some .fault, setTo := true }

/-- The return from `FAULT`, through `POST_DELAY` (R199, R277). -/
def State.leaveFault (s : State) : State := s.enterDelay .postDelay

/-! ### One edge -/

/-- `s` updated by `Uf`, and its error-set request (R221, R272). -/
def State.applyFsm (t : State) (u : FsmUpdate) : State :=
  { t with
    fsm := u.fsm.getD t.fsm
    dly := u.dly.getD t.dly
    idx := u.idx.getD t.idx
    toCnt := u.toCnt.getD t.toCnt
    armed := u.armed.getD t.armed
    buf := t.buf.writeAll u.bufWrites
    err := t.err.update { tmo := u.setTo } }

/-- The block at an edge with `rst = 1` (R300): every register at its reset value (R52), no byte of `buf` changed (R301). -/
def State.resetBlock (s : State) : State :=
  { s with fsm := .idle, dly := 0#32, idx := 0#16, toCnt := 0#32, armed := false, err := ErrFlags.clear,
           color := 0#24, timeout := 0#32, table := List.replicate s.params.nLeds 0#24 }

end Sys2Proof.Machine
end

