-- ==== Sys2Proof/Machine/Commands.lean ====
section
/-! DEFINITION. The commands written to `CMD` (41_host_commands.md R194 to R200). -/

namespace Sys2Proof.Machine

/-- The effect of an illegal command word: `err_ill` and nothing else (R105, R194). -/
def illegalCommand (s : State) : State := s.request (raise .illegalCommand)

/-- `NOP` (R195). -/
def execCmdNop (s : State) : Host.Outcome State Fault Refusal := .next s

/-- `SET` (R196): one table entry, or `err_rng` and nothing else. -/
def execCmdSet (index : Index) (s : State) : Host.Outcome State Fault Refusal :=
  .next (if index.toNat < s.params.nLeds then { s with table := s.table.set index.toNat (colorOperand s) }
    else s.request (raise .indexRange))

/-- `FILL` (R197): every table entry at this one edge. -/
def execCmdFill (s : State) : Host.Outcome State Fault Refusal :=
  .next { s with table := List.replicate s.params.nLeds (colorOperand s) }

/-- `SHOW` (R198): accepted in `IDLE`, otherwise dropped with `err_rej`. -/
def execCmdShow (s : State) : Host.Outcome State Fault Refusal :=
  .next (if s.fsm = .idle then (s.markShow).enterDelay .preDelay else s.request (raise .showRejected))

/-- `RECOVER` (R199): leaves `FAULT` through a full reset gap; elsewhere it has no effect and raises nothing (D36). -/
def execCmdRecover (s : State) : Host.Outcome State Fault Refusal :=
  .next (if s.fsm = .fault then (s.markRecover).leaveFault else s)

/-- `CLRERR` (R200): the clear request; `state` is unchanged. -/
def execCmdClrerr (s : State) : Host.Outcome State Fault Refusal := .next (s.request clearRequest)

/-- A word with `OP` 6 or 7 (R105, R194). -/
def execIllegalOp67 (_w : Word) (s : State) : Host.Outcome State Fault Refusal := .next (illegalCommand s)

/-- A word with `OP` 8 to F (R105, R194). -/
def execIllegalOp8F (_w : Word) (s : State) : Host.Outcome State Fault Refusal := .next (illegalCommand s)

/-- `WR_CMD` (R194): the legality of the word is checked before anything else, then it is dispatched on `OP`. -/
def execWrCmd (w : Word) (s : State) : Host.Outcome State Fault Refusal :=
  if legalCommand w then
    if opField w = 0x0#4 then execCmdNop s
    else if opField w = 0x1#4 then execCmdSet (indexField w) s
    else if opField w = 0x2#4 then execCmdFill s
    else if opField w = 0x3#4 then execCmdShow s
    else if opField w = 0x4#4 then execCmdRecover s
    else execCmdClrerr s
  else .next (illegalCommand s)

end Sys2Proof.Machine
end

