-- ==== Sys2Proof/Machine/Reads.lean ====
section
/-! DEFINITION. The register reads (41_host_commands.md R180 to R187). A read changes no state of the block; the value goes
to the host. -/

namespace Sys2Proof.Machine

/-- `COLOR` as it reads (R182). -/
def colorWord (s : State) : Word := s.color.zeroExtend 32

/-- `NLEDS` (R184). -/
def nledsWord (s : State) : Word := BitVec.ofNat 32 s.params.nLeds

/-- `RESET_TICKS` (R185). -/
def resetTicksWord (s : State) : Word := BitVec.ofNat 32 s.params.tResetTicks

/-- `ReadValue(s, offset)` by bus address, the port `bus_rdata` (R51, R180 to R187). -/
def readValue (s : State) (a : BusAddr) : Word :=
  if a = 0#3 then 0#32
  else if a = 1#3 then colorWord s
  else if a = 2#3 then statusWord s
  else if a = 3#3 then nledsWord s
  else if a = 4#3 then resetTicksWord s
  else if a = 5#3 then s.timeout
  else 0#32

/-- `RD_CMD` (R181). -/
def execRdCmd (s : State) : Host.Outcome State Fault Refusal := .next (s.pushRead 0#32)

/-- `RD_COLOR` (R182). -/
def execRdColor (s : State) : Host.Outcome State Fault Refusal := .next (s.pushRead (colorWord s))

/-- `RD_STATUS` (R183). -/
def execRdStatus (s : State) : Host.Outcome State Fault Refusal := .next (s.pushRead (statusWord s))

/-- `RD_NLEDS` (R184). -/
def execRdNleds (s : State) : Host.Outcome State Fault Refusal := .next (s.pushRead (nledsWord s))

/-- `RD_RESET_TICKS` (R185). -/
def execRdResetTicks (s : State) : Host.Outcome State Fault Refusal := .next (s.pushRead (resetTicksWord s))

/-- `RD_TIMEOUT` (R186). -/
def execRdTimeout (s : State) : Host.Outcome State Fault Refusal := .next (s.pushRead s.timeout)

/-- `RD_RSVD` (R187): both offsets read 0. -/
def execRdRsvd (_a : BusAddr) (s : State) : Host.Outcome State Fault Refusal := .next (s.pushRead 0#32)

end Sys2Proof.Machine
end

