-- ==== Sys2Proof/Machine/Writes.lean ====
section
/-! DEFINITION. The register writes other than `CMD` (41_host_commands.md R188 to R193). -/

namespace Sys2Proof.Machine

/-- `WR_COLOR` (R188): `w[23:0]` is stored, `w[31:24]` discarded. -/
def execWrColor (w : Word) (s : State) : Host.Outcome State Fault Refusal := .next { s with color := colorField w }

/-- `WR_TIMEOUT` (R189): the whole word; `to_cnt` is not touched. -/
def execWrTimeout (w : Word) (s : State) : Host.Outcome State Fault Refusal := .next { s with timeout := w }

/-- `WR_STATUS` (R190): ignored; it clears nothing. -/
def execWrStatus (_w : Word) (s : State) : Host.Outcome State Fault Refusal := .next s

/-- `WR_NLEDS` (R191): ignored. -/
def execWrNleds (_w : Word) (s : State) : Host.Outcome State Fault Refusal := .next s

/-- `WR_RESET_TICKS` (R192): ignored. -/
def execWrResetTicks (_w : Word) (s : State) : Host.Outcome State Fault Refusal := .next s

/-- `WR_RSVD` (R193): ignored. -/
def execWrRsvd (_a : BusAddr) (_w : Word) (s : State) : Host.Outcome State Fault Refusal := .next s

end Sys2Proof.Machine
end

