-- ==== Sys2Proof/Machine/Dispatch.lean ====
section
/-! DEFINITION. `HostStep` (42_frame_fsm.md R221): the meaning of one host access or command, one arm per constructor. -/

namespace Sys2Proof.Machine

def exec (i : Instr) (s : State) : Host.Outcome State Fault Refusal :=
  match i with
  | .rdCmd => Sys2Proof.Machine.execRdCmd s
  | .rdColor => Sys2Proof.Machine.execRdColor s
  | .rdStatus => Sys2Proof.Machine.execRdStatus s
  | .rdNleds => Sys2Proof.Machine.execRdNleds s
  | .rdResetTicks => Sys2Proof.Machine.execRdResetTicks s
  | .rdTimeout => Sys2Proof.Machine.execRdTimeout s
  | .rdRsvd a => Sys2Proof.Machine.execRdRsvd a s
  | .wrCmd w => Sys2Proof.Machine.execWrCmd w s
  | .wrColor w => Sys2Proof.Machine.execWrColor w s
  | .wrStatus w => Sys2Proof.Machine.execWrStatus w s
  | .wrNleds w => Sys2Proof.Machine.execWrNleds w s
  | .wrResetTicks w => Sys2Proof.Machine.execWrResetTicks w s
  | .wrTimeout w => Sys2Proof.Machine.execWrTimeout w s
  | .wrRsvd a w => Sys2Proof.Machine.execWrRsvd a w s
  | .cmdNop => Sys2Proof.Machine.execCmdNop s
  | .cmdSet index => Sys2Proof.Machine.execCmdSet index s
  | .cmdFill => Sys2Proof.Machine.execCmdFill s
  | .cmdShow => Sys2Proof.Machine.execCmdShow s
  | .cmdRecover => Sys2Proof.Machine.execCmdRecover s
  | .cmdClrerr => Sys2Proof.Machine.execCmdClrerr s
  | .illegalOp67 w => Sys2Proof.Machine.execIllegalOp67 w s
  | .illegalOp8F w => Sys2Proof.Machine.execIllegalOp8F w s

end Sys2Proof.Machine
end

