-- ==== Sys2Proof/Machine/Encoder.lean ====
section
/-! DEFINITION. The frame encoder, the wire and the reference decoder: pure functions with no state and no failure
(40_encoder.md R140 to R150). -/

namespace Sys2Proof.Machine

/-- `EncBit` (R140): the serial nibble of a protocol bit. -/
def encBit (p : Bool) : Nibble := if p then 0b1100#4 else 0b1000#4

/-- The accumulator of `EncByte` over the protocol bits `v[k-1] .. v[0]`, most significant first (R141). -/
def encAcc (v : Byte) : Nat → Word → Word
  | 0, acc => acc
  | k + 1, acc => encAcc v k ((acc <<< 4) ||| (encBit (v.getLsbD k)).zeroExtend 32)

/-- A 32-bit value split into 4 bytes, most significant byte first (R71, R141). -/
def splitMsbFirst (acc : Word) : List Byte :=
  [acc.extractLsb' 24 8, acc.extractLsb' 16 8, acc.extractLsb' 8 8, acc.extractLsb' 0 8]

/-- `EncByte` (R141). -/
def encByte (v : Byte) : List Byte := splitMsbFirst (encAcc v 8 0#32)

/-- `EncLED` (R143): green, red, blue. -/
def encLed (e : Color) : List Byte := encByte (green e) ++ encByte (red e) ++ encByte (blue e)

/-- `EncFrame` (R144). -/
def encFrame (table : List Color) : List Byte := table.flatMap encLed

/-- `channel_c` (R144): 0 is green, 1 is red, 2 is blue. -/
def channel (c : Fin 3) (e : Color) : Byte :=
  match c with
  | 0 => green e
  | 1 => red e
  | 2 => blue e

/-- The serial bits of one byte, most significant first (R73, R146). -/
def wireByte (b : Byte) : List Bool :=
  [b.getLsbD 7, b.getLsbD 6, b.getLsbD 5, b.getLsbD 4, b.getLsbD 3, b.getLsbD 2, b.getLsbD 1, b.getLsbD 0]

/-- `Wire` (R146). -/
def wire (bytes : List Byte) : List Bool := bytes.flatMap wireByte

/-- The protocol bits of a color in the order the chain receives them: green, red, blue, each most significant bit first
(R141, R143). -/
def protocolBits (e : Color) : List Bool := wireByte (green e) ++ wireByte (red e) ++ wireByte (blue e)

/-- High and low time of a protocol bit on the wire, in lane bit times (R140, R147). -/
def pulse (p : Bool) : Nat × Nat := if p then (2, 2) else (1, 3)

/-- Wire time of a frame, in lane bit times: 12 bytes of 8 bits for each LED (R312). -/
def frameBitTimes (p : Params) : Nat := 96 * p.nLeds

/-- The least number of edges a lane that reports wire completion spends in `TRANSMITTING`:
`ceil(96 * N_LEDS * F_CLK / LANE_BITRATE)` (R312), the quotient of the two rates written as one fraction. -/
def minTransmitEdges (p : Params) : Nat :=
  let num := frameBitTimes p * p.fClkRate.num * p.laneRate.den
  let den := p.fClkRate.den * p.laneRate.num
  (num + (den - 1)) / den

/-! ### The reference decoder (R148), which is no part of the block

DESIGN CHOICE (log 25): R148 gives no result of `DecByte`, `DecLED` and `DecFrame` for a stream that no encoder makes. Here
one INVALID nibble makes the whole byte, LED and frame `none`, and so does a number of bytes that is no multiple of 12. -/

/-- `DecNibble`; `none` is INVALID. -/
def decNibble (x : Nibble) : Option Bool :=
  if x = 0b1000#4 then some false else if x = 0b1100#4 then some true else none

/-- Eight protocol bits, the first one bit 7. -/
def byteOfBits (b7 b6 b5 b4 b3 b2 b1 b0 : Bool) : Byte :=
  BitVec.ofBool b7 ++ BitVec.ofBool b6 ++ BitVec.ofBool b5 ++ BitVec.ofBool b4
    ++ BitVec.ofBool b3 ++ BitVec.ofBool b2 ++ BitVec.ofBool b1 ++ BitVec.ofBool b0

/-- `DecByte`; `none` where a nibble is INVALID (DESIGN CHOICE, log 25). -/
def decByte (x0 x1 x2 x3 : Byte) : Option Byte := do
  let b7 ← decNibble (x0.extractLsb' 4 4)
  let b6 ← decNibble (x0.extractLsb' 0 4)
  let b5 ← decNibble (x1.extractLsb' 4 4)
  let b4 ← decNibble (x1.extractLsb' 0 4)
  let b3 ← decNibble (x2.extractLsb' 4 4)
  let b2 ← decNibble (x2.extractLsb' 0 4)
  let b1 ← decNibble (x3.extractLsb' 4 4)
  let b0 ← decNibble (x3.extractLsb' 0 4)
  pure (byteOfBits b7 b6 b5 b4 b3 b2 b1 b0)

/-- `DecFrame`, with `DecLED` for each group of 12 bytes: green, red, blue. `none` where a nibble is INVALID or the number
of bytes is no multiple of 12 (DESIGN CHOICE, log 25). -/
def decFrame : List Byte → Option (List Color)
  | g0 :: g1 :: g2 :: g3 :: r0 :: r1 :: r2 :: r3 :: b0 :: b1 :: b2 :: b3 :: rest => do
    let g ← decByte g0 g1 g2 g3
    let r ← decByte r0 r1 r2 r3
    let b ← decByte b0 b1 b2 b3
    let more ← decFrame rest
    pure (rgb r g b :: more)
  | [] => some []
  | _ => none

end Sys2Proof.Machine
end

