-- ==== Sys2Proof/Machine/Frame.lean ====
section
/-! DEFINITION. The frame state machine: `FsmStep` (42_frame_fsm.md R220 to R229). Each state reads the pre-edge state and
answers its updates; `done` is the level of `tx_done` at the edge. -/

namespace Sys2Proof.Machine

/-- `IDLE` (R222): no update. -/
def fsmIdle (_s : State) (_done : Bool) : FsmUpdate := {}

/-- `PRE_DELAY` (R223). -/
def fsmPreDelay (s : State) (_done : Bool) : FsmUpdate :=
  if s.dly = 0#32 then { fsm := some .filling, idx := some 0#16 } else { dly := some (s.dly - 1#32) }

/-- The edge of `FILLING` that encodes the entry `e` for LED `idx` (R224). -/
def fsmFillLed (s : State) (e : Color) : FsmUpdate :=
  let writes := bytesAt (12 * s.idx.toNat) (encLed e)
  if s.idx.toNat = s.params.lastLed.val then
    { bufWrites := writes, fsm := some .transmitting, armed := some false, toCnt := some s.timeout }
  else { bufWrites := writes, idx := some (s.idx + 1#16) }

/-- `TRANSMITTING` (R225): completion, else the bound, else one more edge of waiting. -/
def fsmTransmitting (s : State) (done : Bool) : FsmUpdate :=
  if s.armed && done then { fsm := some .postDelay, dly := some (dlyLoad s) }
  else if s.toCnt = 1#32 then takeTxTimeout
  else if 1#32 < s.toCnt then { armed := some true, toCnt := some (s.toCnt - 1#32) }
  else { armed := some true }

/-- `POST_DELAY` (R226). -/
def fsmPostDelay (s : State) (_done : Bool) : FsmUpdate :=
  if s.dly = 0#32 then { fsm := some .idle } else { dly := some (s.dly - 1#32) }

/-- `FAULT` (R227): no update. -/
def fsmFault (_s : State) (_done : Bool) : FsmUpdate := {}

/-- `FsmStep(s, tx_done)` (R221 to R227). `FILLING` reads one whole table entry; an index outside the table is no state of
any run and stops (log 13). -/
def fsmStep (s : State) (done : Bool) : Except Fault FsmUpdate :=
  match s.fsm with
  | .idle => .ok (fsmIdle s done)
  | .preDelay => .ok (fsmPreDelay s done)
  | .filling =>
    match s.table[s.idx.toNat]? with
    | some e => .ok (fsmFillLed s e)
    | none => .error .fillOutsideTable
  | .transmitting => .ok (fsmTransmitting s done)
  | .postDelay => .ok (fsmPostDelay s done)
  | .fault => .ok (fsmFault s done)

end Sys2Proof.Machine
end

