-- ==== Sys2Proof/Machine/Lane.lean ====
section
/-! DEFINITION. The lane handshake: the block's outputs to the lane, the lane's reads of `buf`, and the lane as the agent that
samples `tx_start` and raises `tx_done` (42_frame_fsm.md R230 to R233; 20_memory.md R72, R79). -/

namespace Sys2Proof.Machine

/-- `tx_start` (R230). -/
def State.txStart (s : State) : Bool := s.fsm == .transmitting && !s.armed

/-- The lane-interface outputs, functions of the state only (R51, R230). -/
def laneOut (s : State) : LaneOut :=
  { txStart := s.txStart
    txSrc := s.params.bufBase
    txDst := s.params.laneDr
    txCount := BitVec.ofNat 32 s.params.bufLen
    txDir := true
    txSrcInc := true
    txDstInc := false }

/-- The byte of `buf` the lane port shows at index `k`: what was last written there, or, where nothing has been written, the
free value (R41, R52; log 5). -/
def laneByte (s : State) (k : Nat) : Byte := (s.buf.read? k).getD (Config.freeBufByte s.world.epoch k)

/-- `MemRead(addr, 1)` by the lane (R72). No read outside the buffer is defined (R79). -/
def laneRead (s : State) (addr : Nat) : Option Byte :=
  if s.params.bufBase.toNat ≤ addr ∧ addr < s.params.bufBase.toNat + s.params.bufLen then
    some (laneByte s (addr - s.params.bufBase.toNat))
  else none

/-- The frame a transfer delivers: `buf[0 .. BUF_LEN-1]` in increasing order (R231 item 1, R232). -/
def deliveredFrame (s : State) : List Byte := (List.range s.params.bufLen).map (laneByte s)

/-- The inputs of the period the machine is in. When none are listed any more, nothing happens around the block, and the
lane and the host draw what is theirs (log 2). -/
def currentPeriod (s : State) : Period := s.world.env.headD {}

/-- A one-bit input, or its driver's free draw. -/
def Draw.level (d : Draw) (free : Bool) : Bool :=
  match d with
  | .low => false
  | .high => true
  | .drawn => free

/-- A transfer is outstanding in the lane in this period: it was started at an earlier edge and has neither completed nor
been stopped through the lane's own interface (R231, R307). DESIGN CHOICE (log 11): where the lane is reset and `tx_done` is
high in one period, the reset comes first, so that completion finds nothing outstanding. -/
def laneRunning (s : State) (p : Period) : Bool := s.world.laneBusy && !p.laneReset

/-- The level of `tx_done` at the edge. A draw of the lane's keeps its obligations: a pulse only while a transfer is
outstanding (R231 items 2, 3 and 6). -/
def txDone (s : State) (p : Period) : Bool :=
  p.tx.level (laneRunning s p && Config.freeTxDone s.world.tick)

/-- The world as the edge finds it: the lane has stopped if it was reset or if it reports completion, and a completion with
nothing outstanding is marked (R231, R307, U10, U11; log 8, 9, 11). DESIGN CHOICE (log 7): this is so in a period without
an edge too, since the spec does not tie the lane to the block's clock and power. -/
def beginPeriod (s : State) (p : Period) : State :=
  { s with world := { s.world with
      laneBusy := laneRunning s p && !txDone s p
      marks := { s.world.marks with
        laneBroken := s.world.marks.laneBroken || (txDone s p && !laneRunning s p) } } }

/-- The lane's edge: it samples `tx_start` as the pre-edge state `s` drives it and takes the frame (R230, R231 item 1, R232).
DESIGN CHOICE (log 8): a lane that still runs a transfer takes the second one into the same bit, so that one `tx_done` ends
both. -/
def laneSample (s : State) (w : World) : World :=
  if s.txStart then { w with laneBusy := true, frames := deliveredFrame s :: w.frames } else w

end Sys2Proof.Machine
end

