-- ==== Sys2Proof/Machine/HostAgent.lean ====
section
/-! DEFINITION. The HOST: programs in the notation of 30_encoding.md R107 and R108, one access at most a period (R180), and
the result of a `show` (R237). -/

namespace Sys2Proof.Machine

/-- The bus address of a register, its offset divided by 4 (R43, R103). -/
def HostReg.addr : HostReg → BusAddr
  | .cmd => 0#3
  | .color => 1#3
  | .status => 2#3
  | .nleds => 3#3
  | .resetTicks => 4#3
  | .timeout => 5#3
  | .rsvd18 => 6#3
  | .rsvd1C => 7#3

/-- A conforming read of a register (R107). -/
def readOf (r : HostReg) : BusAccess :=
  { write := false, offset := 4 * r.addr.toNat, width := 32, beats := 1, wdata := 0#32 }

/-- A conforming write of a register (R107). -/
def writeOf (r : HostReg) (v : Word) : BusAccess :=
  { write := true, offset := 4 * r.addr.toNat, width := 32, beats := 1, wdata := v }

/-- `WR <reg>, <imm32>` (R107). -/
def wr (r : HostReg) (v : Word) : HostLine := .bus (writeOf r v)

/-- The expansions of R108. -/
def Pseudo.expand : Pseudo → List HostLine
  | .nop => [wr .cmd 0x00000000#32]
  | .setLed i r g b => [wr .color ((rgb r g b).zeroExtend 32), wr .cmd (0x10000000#32 + i.zeroExtend 32)]
  | .setI i => [wr .cmd (0x10000000#32 + i.zeroExtend 32)]
  | .fillAll r g b => [wr .color ((rgb r g b).zeroExtend 32), wr .cmd 0x20000000#32]
  | .showFrame => [wr .cmd 0x30000000#32]
  | .recover => [wr .cmd 0x40000000#32]
  | .clrErr => [wr .cmd 0x50000000#32]
  | .waitDone => [.poll .status 0x00000008#32 0x00000000#32]
  | .showSync name => [wr .cmd 0x30000000#32, .poll .status 0x00000008#32 0x00000000#32, .rd .status name]

/-- The program with the lines that take no period left out: `IDLEFOR 0` (log 17). -/
def dropEmptyIdle : List HostLine → List HostLine
  | .idleFor 0 :: rest => dropEmptyIdle rest
  | prog => prog

/-- The line the host is at. -/
def currentLine (s : State) : Option HostLine := (dropEmptyIdle s.world.prog).head?

/-- The host lets this period pass although it is at a `POLL` (R107: "Any number of idle periods may separate iterations").
DESIGN CHOICE (log 6): it may do so before the first of its reads too. -/
def pollIdles (s : State) (p : Period) : Bool := p.pollIdle.level (Config.freePollIdle s.world.tick)

/-- The access the host presents in this period, at most one (R180). DESIGN CHOICE (log 3): a `WR` or `RD` line is presented
as soon as the program is at it; a host that waits before one has an `IDLEFOR` there. -/
def presented (s : State) (p : Period) : Option BusAccess :=
  match currentLine s with
  | some (.bus a) => some a
  | some (.rd r _) => some (readOf r)
  | some (.poll r _ _) => if pollIdles s p then none else some (readOf r)
  | some (.idleFor _) => none
  | none => none

/-- The program after this period: the next line, the same `POLL` again while its condition does not hold for the value read,
or an `IDLEFOR` with one period less (R107). -/
def progAfter (s : State) (p : Period) : List HostLine :=
  match dropEmptyIdle s.world.prog with
  | .bus _ :: rest => rest
  | .rd _ _ :: rest => rest
  | .poll r mask val :: rest =>
    if !pollIdles s p && readValue s r.addr &&& mask == val then rest else .poll r mask val :: rest
  | .idleFor n :: rest => if n ≤ 1 then rest else .idleFor (n - 1) :: rest
  | [] => []

/-- The names bound after this period: `RD <reg> -> <name>` binds the value of the period the read is presented in
(R107, R180). -/
def varsAfter (s : State) : List (String × Word) :=
  match currentLine s with
  | some (.rd r name) => (name, readValue s r.addr) :: s.world.vars
  | _ => s.world.vars

/-- What keeps the access of this period from being conforming, or nothing (R75). -/
def presentedFlaw (s : State) (p : Period) : Option AccessFlaw := (presented s p).bind BusAccess.flaw

/-- The values read after this period, where the edge does nothing with the access, a conforming one: at a reset edge a read
still returns `bus_rdata`, a function of the pre-edge state (R51, R180, R300; log 10). -/
def readsAtReset (s : State) (p : Period) : List Word :=
  match presented s p with
  | some a => if a.write then s.world.reads else readValue s (BitVec.ofNat 3 (a.offset / 4)) :: s.world.reads
  | none => s.world.reads

/-- The result of a `show` as a read of `STATUS` tells it (R237). A word with `BUSY = 0` and a `STATE` other than 0 and 7 is no
value of `STATUS` (R32; log 12). -/
def showResult (st : Word) : ShowResult :=
  if st.getLsbD 3 then .inProgress
  else if st.extractLsb' 0 3 = 0#3 then .succeeded
  else .timedOut

end Sys2Proof.Machine
end

