-- ==== Sys2Proof/Machine/Edge.lean ====
section
/-! DEFINITION. One edge around the meaning of the host's access: the pre-edge state `s`, the inputs `p` of the period, and
what each agent makes of them (42_frame_fsm.md R221; 70_reset_and_hazards.md R300). -/

namespace Sys2Proof.Machine

/-- The world after an edge: the lane has sampled `tx_start` of the pre-edge state, the host is at its next line, and the
inputs of this period are spent. `w` is the world the host's access left. -/
def endWorld (s : State) (p : Period) (w : World) : World :=
  { laneSample s w with
    env := w.env.tail
    prog := progAfter s p
    vars := varsAfter s
    tick := w.tick + 1 }

/-- The edge with `rst = 0`: `t` is the pre-edge state updated by the host's access, and the frame state machine's own
updates, read from `s`, are added to it (R221). -/
def endEdge (s : State) (p : Period) (done : Bool) (t : State) : Host.Outcome State Fault Refusal :=
  match fsmStep s done with
  | .ok u => .next { t.applyFsm u with world := endWorld s p t.world }
  | .error f => .fault f

/-- The edge with `rst = 1` (R300): the block is reset, whatever the conforming access and `tx_done` are; the lane goes on
(R301). DEDUCED (log 26): the first such edge samples `tx_start` as the state before it drives it (R230), so a block that is
in `TRANSMITTING` with `armed = 0` there still starts its transfer. -/
def resetEdge (s : State) (p : Period) : State :=
  { s.resetBlock with world := { endWorld s p s.world with reads := readsAtReset s p } }

/-- The first reset edge after power-up (R300, U5): the block is reset and the contents of `buf` are unspecified again (R52).
DESIGN CHOICE (log 7): the host presents nothing before it, the unknown state drives no `tx_start`, and the observation, the
host's names and the marks are carried on. -/
def firstResetEdge (s : State) : State :=
  { s.resetBlock with
    buf := []
    world := { s.world with up := true, env := s.world.env.tail, tick := s.world.tick + 1, epoch := s.world.epoch + 1 } }

/-- A period in which the clock or the power is removed (R285, U14): no edge, and nothing of the block's state counts until
a reset edge. DESIGN CHOICE (log 7): the state `s` is the one `beginPeriod` gives, in which the lane, an agent of its own, has
taken its reset or its completion of this period; the host presents nothing, so that no line is refused and its program stays
where it is; the observation, the host's names and the marks are carried on (R10). -/
def losePower (s : State) : State :=
  { s with world := { s.world with up := false, env := s.world.env.tail, tick := s.world.tick + 1 } }

end Sys2Proof.Machine
end

