-- ==== Sys2Proof/Machine/Step.lean ====
section
/-! DEFINITION. One `clk` period and the edge that ends it (00_scope.md R9; 42_frame_fsm.md R221). -/

namespace Sys2Proof.Machine

/-- The host's half of an edge: the access decoded and its meaning run on the pre-edge state, or nothing to run. -/
def hostHalf (s : State) (p : Period) : Host.Outcome State Fault Refusal :=
  match presented s p with
  | none => .next s
  | some a =>
    match decodeAccess a with
    | .ok i => exec i s
    | .error f => .refused (.nonConforming f)

/-- An edge with `rst = 1`. A non-conforming access is refused at it as at every edge (R75, U7);
DEDUCED against R300's "whatever the host access" (log 14). -/
def runResetEdge (s : State) (p : Period) : Host.Outcome State Fault Refusal :=
  match presentedFlaw s p with
  | some f => .refused (.nonConforming f)
  | none => .next (resetEdge s p)

/-- An edge with `rst = 0`: both halves read the pre-edge state `s` (R221). -/
def runEdge (s : State) (p : Period) (done : Bool) : Host.Outcome State Fault Refusal :=
  match hostHalf s p with
  | .next t => endEdge s p done t
  | .fault f => .fault f
  | .refused r => .refused r

/-- One period. `rst` has priority over everything at its edge (R274, R300), and without a reset edge since power-up there
is no run (U5, U14). A period without an edge is `losePower` (R285; log 7). -/
def step (s : State) : Host.Outcome State Fault Refusal :=
  let p := currentPeriod s
  let b := beginPeriod s p
  if p.powerLoss then .next (losePower b)
  else if s.world.up then
    if p.rst then runResetEdge b p else runEdge b p (txDone s p)
  else if p.rst then .next (firstResetEdge b)
  else .refused .noResetEdge

/-- The access that carries an opcode-table word to the block; where the word has no encoding, an access of no width, which
the step refuses. -/
def fetchAccess (nbits w : Nat) : BusAccess :=
  match encodedOfTable nbits w with
  | some e => e.access
  | none => { write := false, offset := 0, width := 0, beats := 1, wdata := 0#32 }

/-- `s` with that access as what the host presents next, in a period with no reset and no loss of power, on a block that has
been reset (log 3). -/
def State.withFetchWord (s : State) (nbits w : Nat) : State :=
  { s with world := { s.world with
      up := true
      env := { currentPeriod s with rst := false, powerLoss := false } :: s.world.env.tail
      prog := .bus (fetchAccess nbits w) :: s.world.prog } }

end Sys2Proof.Machine
end

