-- ==== Sys2Proof/Safety.lean ====
section
/-! DEFINITION. What counts as a well-formed state, as a quiet environment and as a clean run, in the terms the statements
use (10_state.md, 60_exceptions.md R270 to R274, 93_implementation_defined.md U2, U8, U10, U11). -/

namespace Sys2Proof.Machine

/-- The four bytes the encoder makes (R142). -/
def isEncodedByte (b : Byte) : Bool := b == 0x88#8 || b == 0x8C#8 || b == 0xC8#8 || b == 0xCC#8

/-- What holds of every state a run reaches. -/
structure State.Inv (s : State) : Prop where
  /-- `table` has `N_LEDS` entries (R40). -/
  tableLength : s.table.length = s.params.nLeds
  /-- `idx` stops at `N_LEDS - 1` (R31). -/
  idxInTable : s.idx.toNat < s.params.nLeds
  /-- `dly` is loaded with `T_RESET_TICKS - 1` and only counted down (R228). -/
  dlyBounded : s.dly.toNat < s.params.tResetTicks
  /-- `buf` is in canonical form. -/
  bufCanonical : s.buf.wf
  /-- No byte beyond `BUF_LEN` is held (R41). -/
  bufInRange : ∀ c ∈ s.buf, c.1 < s.params.bufLen
  /-- Only the encoder writes `buf` (R41, R142). -/
  bufEncoded : ∀ c ∈ s.buf, isEncodedByte c.2 = true
  /-- In `FILLING` the bytes of the LEDs before `idx` have been written (R224). -/
  filledBelowIdx : s.fsm = .filling → ∀ k < 12 * s.idx.toNat, (s.buf.read? k).isSome = true
  /-- In `TRANSMITTING` every byte has been written: no unspecified byte reaches the wire (R234). -/
  wholeInTransmitting : s.fsm = .transmitting → ∀ k < s.params.bufLen, (s.buf.read? k).isSome = true
  /-- Every frame delivered has `BUF_LEN` bytes, each one of the encoder's (R149, R232). -/
  framesEncoded : ∀ f ∈ s.world.frames, f.length = s.params.bufLen ∧ ∀ b ∈ f, isEncodedByte b = true

/-- Nothing resets the block or takes its power in the listed periods. -/
def Quiet (env : List Period) : Prop := ∀ p ∈ env, p.rst = false ∧ p.powerLoss = false

/-- A line of a host program with conforming accesses only (R75). -/
def HostLine.conforming : HostLine → Bool
  | .bus a => a.flaw == none
  | .rd _ _ => true
  | .poll _ _ _ => true
  | .idleFor _ => true

/-- The machine has been reset and runs on, with conforming accesses and no reset or power loss ahead. -/
structure Undisturbed (s : State) : Prop where
  up : s.world.up = true
  quiet : Quiet s.world.env
  conforming : ∀ l ∈ s.world.prog, l.conforming = true

/-- An edge with neither reset nor loss of power, and a conforming access or none. -/
structure PlainEdge (s : State) : Prop where
  up : s.world.up = true
  powered : (currentPeriod s).powerLoss = false
  noReset : (currentPeriod s).rst = false
  conforming : ∀ a, presented s (currentPeriod s) = some a → a.flaw = none

/-- In this period the host writes the command word `w` to `CMD`. -/
def WritesCommand (s : State) (w : Word) : Prop := presented s (currentPeriod s) = some (writeOf .cmd w)

/-- The machine after `n` periods, unless it stops before. -/
def runSteps : Nat → State → Host.Outcome State Fault Refusal
  | 0, s => .next s
  | n + 1, s =>
    match step s with
    | .next s' => runSteps n s'
    | .fault f => .fault f
    | .refused r => .refused r

/-- A clean run so far: the premises a claim about a program takes (U2, U8: no illegal command and no rejected `SHOW`; U10,
D18: no `RECOVER` or `SHOW` over a running lane; U11: a lane that keeps its obligations). -/
def State.clean (s : State) : Bool :=
  !s.err.ill && !s.err.rej && !s.world.marks.recoverBusy && !s.world.marks.showBusy && !s.world.marks.laneBroken

/-- While `FILLING`, the LEDs before `idx` stand in `buf` as the table has them now; in `TRANSMITTING` all of them do
(R144, R224). -/
structure EncodedSoFar (s : State) : Prop where
  filling : s.fsm = .filling → ∀ i < s.idx.toNat, ∀ e, s.table[i]? = some e →
    ∀ m < 12, s.buf.read? (12 * i + m) = (encLed e)[m]?
  transmitting : s.fsm = .transmitting → ∀ k < s.params.bufLen, s.buf.read? k = (encFrame s.table)[k]?

end Sys2Proof.Machine
end

