-- ==== Sys2Proof/Certificates/Slice0/Obligations.lean ====
section
/-! DEFINITION. The statements about the WS2812 bit encoder, for the provers. Each docstring names the rules of spec/ it
formalises, or says what it is derived from. -/

open Sys2Proof Sys2Proof.Machine

/-! ### Encoding -/

/-- Words written out from R103 and R104 (and the reader's rows of R105) decode to the instructions they stand for. -/
def Obligations.TableWordsDecode : Prop :=
  decode (.btc 0b0010#4 0#32) = .ok .rdStatus
  ∧ decode (.btc 0b0111#4 0#32) = .ok (.rdRsvd 7#3)
  ∧ decode (.btc 0b1101#4 0x00000064#32) = .ok (.wrTimeout 100#32)
  ∧ decode (.btc 0b1000#4 0x30000000#32) = .ok (.wrCmd 0x30000000#32)
  ∧ decode (.cmdw 0x10000002#32) = .ok (.cmdSet 2#16)
  ∧ decode (.cmdw 0x20000000#32) = .ok .cmdFill
  ∧ decode (.cmdw 0x30000000#32) = .ok .cmdShow
  ∧ decode (.cmdw 0x6ABCDEF0#32) = .ok (.illegalOp67 0x6ABCDEF0#32)
  ∧ decode (.cmdw 0xFFFFFFFF#32) = .ok (.illegalOp8F 0xFFFFFFFF#32)
  ∧ decode (.cmdw 0x30000001#32) = .error (.reservedField 0x30000001#32)

/-- Every well-formed instruction is read back from its encoding, with every operand (R101, R103 to R105). -/
def Obligations.DecodeEncodeRoundTrip : Prop :=
  ∀ i : Instr, i.wellFormed = true → decode (encode i) = .ok i

/-- The other direction: what is decoded is well formed and re-encodes to the same table word; a write access and a
command word re-encode whole (a read's data lines mean nothing). -/
def Obligations.DecodedWordsReencode : Prop :=
  (∀ (code : BitVec 4) (w : Word),
    (decodeBtc code w).wellFormed = true
    ∧ (encode (decodeBtc code w)).tableWord = code.zeroExtend 32
    ∧ (code.getLsbD 3 = true → encode (decodeBtc code w) = .btc code w))
  ∧ ∀ (w : Word) (i : Instr), decode (.cmdw w) = .ok i → i.wellFormed = true ∧ encode i = .cmdw w

/-- R104: a command word is legal exactly when it matches exactly one row of R104 under `(w & mask) == match`; `legalCommand`
is R194's legality by fields. -/
def Obligations.CommandWordLegality : Prop :=
  ∀ w : Word, legalCommand w = true ↔ (commandRows.filter (fun r => r.hits w)).length = 1

/-- R194: `WR_CMD` always completes; a word of a row of the table (R104, R105) has that row's effect, and a word of no row
sets `err_ill` and has no other effect, in every `state`. -/
def Obligations.CommandDispatch : Prop :=
  ∀ (w : Word) (s : State), ∃ t, exec (.wrCmd w) s = .next t
    ∧ (∀ i, decode (.cmdw w) = .ok i → exec i s = .next t)
    ∧ (∀ r, decode (.cmdw w) = .error r → t = { s with err := { s.err with ill := true } })
    ∧ (legalCommand w = false → t = { s with err := { s.err with ill := true } })

/-- R75, R105: exactly the aligned single 32-bit accesses at offsets 0x00 to 0x1F decode, and every bus transaction code has a
row: the access that carries a code decodes by it. -/
def Obligations.ConformingAccessesDecode : Prop :=
  (∀ a : BusAccess, (∃ i, decodeAccess a = .ok i) ↔
    (a.width = 32 ∧ a.beats = 1 ∧ a.offset < 32 ∧ a.offset % 4 = 0))
  ∧ ∀ (code : BitVec 4) (w : Word), decodeAccess (Encoded.btc code w).access = .ok (decodeBtc code w)

/-! ### Reads -/

/-- R181, R182, R184 to R187: every read but `STATUS` completes, gives the host the register's value and changes nothing else. -/
def Obligations.ReadsReturnRegisters : Prop :=
  ∀ s : State,
    (exec .rdCmd s = .next { s with world := { s.world with reads := 0#32 :: s.world.reads } })
    ∧ (exec .rdColor s = .next { s with world := { s.world with reads := (0#8 ++ s.color) :: s.world.reads } })
    ∧ (∃ v : Word, exec .rdNleds s = .next { s with world := { s.world with reads := v :: s.world.reads } }
        ∧ v.toNat = s.params.nLeds ∧ v ≠ 0#32 ∧ v.toNat ≤ 65535)
    ∧ (∃ v : Word, exec .rdResetTicks s = .next { s with world := { s.world with reads := v :: s.world.reads } }
        ∧ v.toNat = s.params.tResetTicks ∧ v ≠ 0#32)
    ∧ (exec .rdTimeout s = .next { s with world := { s.world with reads := s.timeout :: s.world.reads } })
    ∧ (∀ a, exec (.rdRsvd a) s = .next { s with world := { s.world with reads := 0#32 :: s.world.reads } })

/-- R183: `RD_STATUS` completes, changes nothing (no flag is cleared), and its value has every field of `STATUS`. -/
def Obligations.StatusFields : Prop :=
  ∀ s : State, ∃ v : Word, exec .rdStatus s = .next { s with world := { s.world with reads := v :: s.world.reads } }
    ∧ (s.fsm = .idle → v.extractLsb' 0 3 = 0#3)
    ∧ (s.fsm = .preDelay → v.extractLsb' 0 3 = 1#3)
    ∧ (s.fsm = .filling → v.extractLsb' 0 3 = 2#3)
    ∧ (s.fsm = .transmitting → v.extractLsb' 0 3 = 3#3)
    ∧ (s.fsm = .postDelay → v.extractLsb' 0 3 = 4#3)
    ∧ (s.fsm = .fault → v.extractLsb' 0 3 = 7#3)
    ∧ (v.getLsbD 3 = true ↔ s.fsm ≠ .idle ∧ s.fsm ≠ .fault)
    ∧ v.extractLsb' 4 4 = 0#4
    ∧ v.getLsbD 8 = s.err.ill ∧ v.getLsbD 9 = s.err.rng ∧ v.getLsbD 10 = s.err.rej ∧ v.getLsbD 11 = s.err.tmo
    ∧ v.extractLsb' 12 20 = 0#20
    ∧ (s.fsm = .fault → s.err.tmo = true → 0x807 ≤ v.toNat)

/-! ### Writes -/

/-- R188: `WR_COLOR` stores `w[23:0]` and nothing else changes, in every `state`; a read then gives `w` with bits 31:24 zero. -/
def Obligations.WriteColorKeepsLowBits : Prop :=
  ∀ (w : Word) (s : State), ∃ t u, exec (.wrColor w) s = .next t ∧ exec .rdColor t = .next u
    ∧ t = { s with color := w.extractLsb' 0 24 }
    ∧ u.world.reads = (w &&& 0x00FFFFFF#32) :: s.world.reads

/-- R189: `WR_TIMEOUT` stores the whole word and nothing else changes, `to_cnt` included, in every `state`. -/
def Obligations.WriteTimeoutStoresWord : Prop :=
  ∀ (w : Word) (s : State), exec (.wrTimeout w) s = .next { s with timeout := w }

/-- R190 to R193 and R195: writes to `STATUS`, `NLEDS`, `RESET_TICKS` and the reserved offsets, and `NOP`, complete and change
nothing. -/
def Obligations.IgnoredWritesAndNop : Prop :=
  ∀ (w : Word) (a : BusAddr) (s : State),
    exec (.wrStatus w) s = .next s ∧ exec (.wrNleds w) s = .next s ∧ exec (.wrResetTicks w) s = .next s
    ∧ exec (.wrRsvd a w) s = .next s ∧ exec .cmdNop s = .next s

/-! ### Commands -/

/-- R196: `SET` completes in every `state`. With an index in range it writes `COLOR` into that entry of the table and changes
nothing else: no other entry, no flag, no byte of `buf`. With `INDEX >= N_LEDS` it sets `err_rng` and changes nothing else. -/
def Obligations.SetEffect : Prop :=
  ∀ (index : Index) (s : State), s.table.length = s.params.nLeds → ∃ t, exec (.cmdSet index) s = .next t
    ∧ (index.toNat < s.params.nLeds → t = { s with table := t.table } ∧ t.table.length = s.params.nLeds
        ∧ ∀ j < s.params.nLeds, t.table[j]? = if j = index.toNat then some s.color else s.table[j]?)
    ∧ (s.params.nLeds ≤ index.toNat → t = { s with err := { s.err with rng := true } })

/-- R197: `FILL` completes in every `state`, writes `COLOR` into every entry and changes nothing else. -/
def Obligations.FillWritesEveryEntry : Prop :=
  ∀ s : State, ∃ t, exec .cmdFill s = .next t ∧ t = { s with table := t.table } ∧ t.table.length = s.params.nLeds
    ∧ ∀ j < s.params.nLeds, t.table[j]? = some s.color

/-- R198: in `IDLE`, `SHOW` enters `PRE_DELAY` with `dly = T_RESET_TICKS - 1` and changes nothing else of the block; elsewhere
it sets `err_rej` and changes nothing else. (Of the world it may only add to the sticky marks.) -/
def Obligations.ShowEffect : Prop :=
  ∀ s : State, ∃ t, exec .cmdShow s = .next t
    ∧ (s.fsm = .idle → t = { s with fsm := .preDelay, dly := t.dly, world := t.world }
        ∧ t.dly.toNat = s.params.tResetTicks - 1 ∧ t.world = { s.world with marks := t.world.marks })
    ∧ (s.fsm ≠ .idle → t = { s with err := { s.err with rej := true } })

/-- R199: in `FAULT`, `RECOVER` enters `POST_DELAY` with `dly = T_RESET_TICKS - 1` and changes nothing else of the block, no
flag; elsewhere it has no effect. (Of the world it may only add to the sticky marks.) -/
def Obligations.RecoverEffect : Prop :=
  ∀ s : State, ∃ t, exec .cmdRecover s = .next t
    ∧ (s.fsm = .fault → t = { s with fsm := .postDelay, dly := t.dly, world := t.world }
        ∧ t.dly.toNat = s.params.tResetTicks - 1 ∧ t.world = { s.world with marks := t.world.marks })
    ∧ (s.fsm ≠ .fault → t = s)

/-- R200: `CLRERR` clears the four flags and changes nothing else, `state` included, in every `state`; a timeout raised at the
edge at which it is written leaves `err_to = 1`. -/
def Obligations.ClrErrEffect : Prop :=
  (∀ s : State, exec .cmdClrerr s = .next { s with err := { ill := false, rng := false, rej := false, tmo := false } })
  ∧ ∀ s : State, PlainEdge s → WritesCommand s 0x50000000#32 → s.fsm = .transmitting →
      (s.armed && txDone s (currentPeriod s)) = false → s.toCnt = 1#32 →
      ∃ s', step s = .next s' ∧ s'.err = { ill := false, rng := false, rej := false, tmo := true }

/-- R105, R194: a word of the two illegal-opcode rows sets `err_ill` and changes nothing else. -/
def Obligations.IllegalRowsRaise : Prop :=
  ∀ (w : Word) (s : State),
    exec (.illegalOp67 w) s = .next { s with err := { s.err with ill := true } }
    ∧ exec (.illegalOp8F w) s = .next { s with err := { s.err with ill := true } }

/-- R273: one command raises at most one error. Legality comes first, whatever the index and the `state` are; then the range
of a `SET`; then the `state` of a `SHOW`. -/
def Obligations.OneErrorPerCommand : Prop :=
  ∀ (w : Word) (s t : State), s.err = ErrFlags.clear → exec (.wrCmd w) s = .next t →
    (legalCommand w = false → t.err = { ErrFlags.clear with ill := true })
    ∧ (legalCommand w = true → w.extractLsb' 28 4 = 1#4 → s.params.nLeds ≤ (w.extractLsb' 0 16).toNat →
        t.err = { ErrFlags.clear with rng := true })
    ∧ (legalCommand w = true → w.extractLsb' 28 4 = 3#4 → s.fsm ≠ .idle →
        t.err = { ErrFlags.clear with rej := true })
    ∧ (legalCommand w = true → (w.extractLsb' 28 4 = 1#4 → (w.extractLsb' 0 16).toNat < s.params.nLeds) →
        (w.extractLsb' 28 4 = 3#4 → s.fsm = .idle) → t.err = ErrFlags.clear)

/-- R221 (the host's half): whatever the access or command, it leaves `idx`, `to_cnt`, `armed`, every byte of `buf` and the
parameters unchanged, sets no `err_to`, and writes `state` and `dly` only on an accepted `SHOW` or `RECOVER`. Of the world it
changes the values read and the two host marks only. -/
def Obligations.HostAccessFrame : Prop :=
  ∀ (i : Instr) (s t : State), exec i s = .next t →
    t.params = s.params ∧ t.idx = s.idx ∧ t.toCnt = s.toCnt ∧ t.armed = s.armed ∧ t.buf = s.buf
    ∧ (∀ k, laneByte t k = laneByte s k)
    ∧ (t.err.tmo = true → s.err.tmo = true)
    ∧ ((t.fsm = s.fsm ∧ t.dly = s.dly)
        ∨ (s.fsm = .idle ∧ t.fsm = .preDelay ∧ t.dly.toNat = s.params.tResetTicks - 1)
        ∨ (s.fsm = .fault ∧ t.fsm = .postDelay ∧ t.dly.toNat = s.params.tResetTicks - 1))
    ∧ t.world = { s.world with reads := t.world.reads, marks := t.world.marks }
    ∧ t.world.marks.laneBroken = s.world.marks.laneBroken

/-! ### The step -/

/-- At an edge with neither reset nor loss of power, when the access the host presents decodes to `i`, the step is `exec` of `i`
at the pre-edge state, with the state machine's own updates, read from that same state, added (`endEdge`), as R221 has it.
THE MODEL'S CHOICE: the pre-edge state is taken after the lane's stop has been noted and before the lane samples `tx_start`
(`beginPeriod`, log 11), and the two halves are put together one after the other (log 15). -/
def Obligations.StepRunsDecodedAccess : Prop :=
  ∀ (s : State) (a : BusAccess) (i : Instr),
    s.world.up = true → (currentPeriod s).powerLoss = false → (currentPeriod s).rst = false →
    presented s (currentPeriod s) = some a → decodeAccess a = .ok i →
    step s =
      match exec i (beginPeriod s (currentPeriod s)) with
      | .next t => endEdge (beginPeriod s (currentPeriod s)) (currentPeriod s) (txDone s (currentPeriod s)) t
      | .fault f => .fault f
      | .refused r => .refused r

/-- R107: what each line of a host program presents, and where the program then stands. THE MODEL'S CHOICES: no idle period
before a `WR` or `RD` line (log 3), any number before the first read of a `POLL` too (log 6), none for `IDLEFOR 0` (log 17). -/
def Obligations.HostLinesRun : Prop :=
  ∀ (s : State) (p : Period) (rest : List HostLine),
    (∀ a, s.world.prog = .bus a :: rest → presented s p = some a ∧ progAfter s p = rest)
    ∧ (∀ r name, s.world.prog = .rd r name :: rest →
        presented s p = some (readOf r) ∧ progAfter s p = rest
        ∧ varsAfter s = (name, readValue s r.addr) :: s.world.vars)
    ∧ (∀ r mask val, s.world.prog = .poll r mask val :: rest →
        (pollIdles s p = true → presented s p = none ∧ progAfter s p = s.world.prog)
        ∧ (pollIdles s p = false → presented s p = some (readOf r)
            ∧ progAfter s p = if readValue s r.addr &&& mask = val then rest else s.world.prog))
    ∧ (∀ n, s.world.prog = .idleFor (n + 1) :: rest →
        presented s p = none ∧ progAfter s p = if n = 0 then rest else .idleFor n :: rest)
    ∧ (s.world.prog = .idleFor 0 :: rest →
        presented s p = presented { s with world := { s.world with prog := rest } } p
        ∧ progAfter s p = progAfter { s with world := { s.world with prog := rest } } p)
    ∧ (s.world.prog = [] → presented s p = none ∧ progAfter s p = [])

/-- R272 with R271: at an edge with neither reset nor loss of power, each flag is set if its cause occurs at this edge, or if
it was set and no `CLRERR` is written at this edge; a set wins over a clear. -/
def Obligations.FlagUpdateRule : Prop :=
  ∀ s : State, PlainEdge s → s.Inv → ∃ s', step s = .next s'
    ∧ (s'.err.ill = true ↔ (∃ w, WritesCommand s w ∧ legalCommand w = false)
        ∨ (s.err.ill = true ∧ ¬ WritesCommand s 0x50000000#32))
    ∧ (s'.err.rng = true ↔ (∃ index : Index, WritesCommand s (0x1000#16 ++ index) ∧ s.params.nLeds ≤ index.toNat)
        ∨ (s.err.rng = true ∧ ¬ WritesCommand s 0x50000000#32))
    ∧ (s'.err.rej = true ↔ (WritesCommand s 0x30000000#32 ∧ s.fsm ≠ .idle)
        ∨ (s.err.rej = true ∧ ¬ WritesCommand s 0x50000000#32))
    ∧ (s'.err.tmo = true ↔ (s.fsm = .transmitting ∧ (s.armed && txDone s (currentPeriod s)) = false ∧ s.toCnt = 1#32)
        ∨ (s.err.tmo = true ∧ ¬ WritesCommand s 0x50000000#32))

/-- R223: one edge of `PRE_DELAY`, whatever conforming access the host makes. -/
def Obligations.PreDelayEdge : Prop :=
  ∀ s : State, PlainEdge s → s.fsm = .preDelay → ∃ s', step s = .next s'
    ∧ (s.dly = 0#32 → s'.fsm = .filling ∧ s'.idx = 0#16 ∧ s'.dly = s.dly)
    ∧ (s.dly ≠ 0#32 → s'.fsm = .preDelay ∧ s'.dly = s.dly - 1#32 ∧ s'.idx = s.idx)
    ∧ s'.buf = s.buf ∧ s'.toCnt = s.toCnt ∧ s'.armed = s.armed ∧ (s'.err.tmo = true → s.err.tmo = true)

/-- R224: one edge of `FILLING`, whatever conforming access the host makes: the pre-edge entry of LED `idx` is encoded into
bytes `12*idx .. 12*idx+11`, no other byte of `buf` changes, and the last LED enters `TRANSMITTING`. -/
def Obligations.FillingEdge : Prop :=
  ∀ s : State, PlainEdge s → s.Inv → s.fsm = .filling → ∃ s' e, step s = .next s'
    ∧ s.table[s.idx.toNat]? = some e
    ∧ (∀ m < 12, s'.buf.read? (12 * s.idx.toNat + m) = (encLed e)[m]?)
    ∧ (∀ k, (k < 12 * s.idx.toNat ∨ 12 * s.idx.toNat + 12 ≤ k) → s'.buf.read? k = s.buf.read? k)
    ∧ (s.idx.toNat = s.params.nLeds - 1 →
        s'.fsm = .transmitting ∧ s'.armed = false ∧ s'.toCnt = s.timeout ∧ s'.idx = s.idx)
    ∧ (s.idx.toNat ≠ s.params.nLeds - 1 →
        s'.fsm = .filling ∧ s'.idx.toNat = s.idx.toNat + 1 ∧ s'.armed = s.armed ∧ s'.toCnt = s.toCnt)
    ∧ s'.dly = s.dly ∧ (s'.err.tmo = true → s.err.tmo = true)

/-- R225: one edge of `TRANSMITTING`, whatever conforming access the host makes: completion first, then the bound, else one
more edge of waiting. -/
def Obligations.TransmittingEdge : Prop :=
  ∀ s : State, PlainEdge s → s.fsm = .transmitting → ∃ s', step s = .next s'
    ∧ (s.armed = true → txDone s (currentPeriod s) = true →
        s'.fsm = .postDelay ∧ s'.dly.toNat = s.params.tResetTicks - 1 ∧ s'.toCnt = s.toCnt ∧ s'.armed = s.armed
        ∧ (s'.err.tmo = true → s.err.tmo = true))
    ∧ ((s.armed && txDone s (currentPeriod s)) = false → s.toCnt = 1#32 →
        s'.fsm = .fault ∧ s'.err.tmo = true ∧ s'.dly = s.dly ∧ s'.toCnt = s.toCnt ∧ s'.armed = s.armed)
    ∧ ((s.armed && txDone s (currentPeriod s)) = false → s.toCnt ≠ 1#32 →
        s'.fsm = .transmitting ∧ s'.armed = true ∧ s'.dly = s.dly
        ∧ s'.toCnt.toNat = s.toCnt.toNat - 1
        ∧ (s'.err.tmo = true → s.err.tmo = true))
    ∧ s'.buf = s.buf ∧ s'.idx = s.idx
    ∧ (s.txStart = true ↔ s.armed = false)

/-- R226: one edge of `POST_DELAY`, whatever conforming access the host makes. -/
def Obligations.PostDelayEdge : Prop :=
  ∀ s : State, PlainEdge s → s.fsm = .postDelay → ∃ s', step s = .next s'
    ∧ (s.dly = 0#32 → s'.fsm = .idle ∧ s'.dly = s.dly)
    ∧ (s.dly ≠ 0#32 → s'.fsm = .postDelay ∧ s'.dly = s.dly - 1#32)
    ∧ s'.buf = s.buf ∧ s'.idx = s.idx ∧ s'.toCnt = s.toCnt ∧ s'.armed = s.armed ∧ (s'.err.tmo = true → s.err.tmo = true)

/-- R222, R227: in `IDLE` and in `FAULT` an edge at which the host presents nothing changes nothing of the block, whatever
`tx_done` is, and `tx_start` is 0. -/
def Obligations.IdleAndFaultHold : Prop :=
  ∀ s : State, PlainEdge s → (s.fsm = .idle ∨ s.fsm = .fault) → presented s (currentPeriod s) = none →
    ∃ s', step s = .next s' ∧ s' = { s with world := s'.world } ∧ s.txStart = false

/-- R233: unless `state = TRANSMITTING` and `armed = 1`, the level of `tx_done` changes nothing of the block's next state. -/
def Obligations.TxDoneIgnoredUnlessArmed : Prop :=
  ∀ (s s' : State) (p : Period) (tx : Draw) (rest : List Period),
    (s.fsm = .transmitting → s.armed = false) → s.world.env = p :: rest → step s = .next s' →
    ∃ t', step { s with world := { s.world with env := { p with tx := tx } :: rest } } = .next t'
      ∧ t' = { s' with world := t'.world }

/-- R221 (the state machine's half), R40: at an edge with neither reset nor loss of power the block itself writes neither
`table`, nor `COLOR`, nor `TIMEOUT`, nor a parameter: they are what the host's access left, and unchanged where nothing is
presented. -/
def Obligations.FsmLeavesHostState : Prop :=
  ∀ s : State, PlainEdge s → s.Inv → ∃ s', step s = .next s' ∧ s'.params = s.params
    ∧ (presented s (currentPeriod s) = none → s'.table = s.table ∧ s'.color = s.color ∧ s'.timeout = s.timeout)
    ∧ ∀ (a : BusAccess) (i : Instr) (t : State), presented s (currentPeriod s) = some a → decodeAccess a = .ok i →
        exec i s = .next t → s'.table = t.table ∧ s'.color = t.color ∧ s'.timeout = t.timeout

/-- R276: the entry to `FAULT` at an edge at which the host presents nothing sets `state` and `err_to` and changes nothing else
of the block. -/
def Obligations.TimeoutEntryKeepsRest : Prop :=
  ∀ s : State, PlainEdge s → s.fsm = .transmitting → (s.armed && txDone s (currentPeriod s)) = false → s.toCnt = 1#32 →
    presented s (currentPeriod s) = none →
    ∃ s', step s = .next s' ∧ s' = { s with fsm := .fault, err := { s.err with tmo := true }, world := s'.world }
      ∧ s'.txStart = false

/-- R220: the transition table. `state` after an edge, from `state` and the row's condition before it; in every other case it is
unchanged. -/
def Obligations.TransitionTable : Prop :=
  ∀ s s' : State, s.world.up = true → (currentPeriod s).powerLoss = false → step s = .next s' →
    s'.fsm =
      if (currentPeriod s).rst then .idle
      else match s.fsm with
        | .idle => if presented s (currentPeriod s) = some (writeOf .cmd 0x30000000#32) then .preDelay else .idle
        | .preDelay => if s.dly = 0#32 then .filling else .preDelay
        | .filling => if s.idx.toNat = s.params.nLeds - 1 then .transmitting else .filling
        | .transmitting =>
          if s.armed && txDone s (currentPeriod s) then .postDelay
          else if s.toCnt = 1#32 then .fault else .transmitting
        | .postDelay => if s.dly = 0#32 then .idle else .postDelay
        | .fault => if presented s (currentPeriod s) = some (writeOf .cmd 0x40000000#32) then .postDelay else .fault

/-- R41, R80 item 5, R301: `buf` changes at no edge but those of `FILLING`; a reset edge changes no byte of it either. (The
first reset edge after power-up makes its contents unspecified again.) THE MODEL'S CHOICE (log 7): the statement takes in a
period without clock or power too, which has no edge; R285 leaves open what `buf` holds after it, and the model keeps it. -/
def Obligations.BufferWrittenOnlyInFilling : Prop :=
  ∀ s s' : State, step s = .next s' → s.world.up = true → (s.fsm ≠ .filling ∨ (currentPeriod s).rst = true) →
    s'.buf = s.buf

/-- R234, R230: `tx_start` rises at no edge but the one that encodes the last LED, so a pulse is over after one period and
none follows without another `FILLING`. -/
def Obligations.TxStartOnlyAfterFilling : Prop :=
  ∀ s s' : State, s.world.up = true → (currentPeriod s).powerLoss = false → step s = .next s' → s'.txStart = true →
    s.fsm = .filling ∧ s.idx.toNat = s.params.nLeds - 1 ∧ (currentPeriod s).rst = false

/-! ### The lane -/

/-- R230: the block's lane outputs. -/
def Obligations.LaneOutputs : Prop :=
  ∀ s : State,
    ((laneOut s).txStart = true ↔ s.fsm = .transmitting ∧ s.armed = false)
    ∧ (laneOut s).txSrc = s.params.bufBase ∧ (laneOut s).txDst = s.params.laneDr
    ∧ (laneOut s).txCount.toNat = 12 * s.params.nLeds
    ∧ (laneOut s).txDir = true ∧ (laneOut s).txSrcInc = true ∧ (laneOut s).txDstInc = false

/-- R232 with R234: at the edge that samples `tx_start` the frame delivered is `buf[0 .. BUF_LEN-1]`, every byte of it one that
`FILLING` has written; at every other edge nothing is delivered. THE MODEL'S CHOICE (log 26): so it is at a reset edge too. -/
def Obligations.DeliveredFrameIsBuffer : Prop :=
  ∀ s s' : State, s.Inv → s.world.up = true → (currentPeriod s).powerLoss = false → step s = .next s' →
    (s.txStart = true → ∃ f, s'.world.frames = f :: s.world.frames ∧ f.length = s.params.bufLen
      ∧ ∀ k < s.params.bufLen, f[k]? = s.buf.read? k ∧ (s.buf.read? k).isSome = true)
    ∧ (s.txStart = false → s'.world.frames = s.world.frames)

/-- R72: the lane reads the byte last written to `buf[k]` at `BUF_BASE + k`; R79 defines no read outside the buffer.
THE MODEL'S CHOICE (log 18): lane addresses do not wrap, so every address below `BUF_BASE`, and every one from
`BUF_BASE + BUF_LEN` on, is outside. -/
def Obligations.LaneReadsBuffer : Prop :=
  ∀ (s : State) (k : Nat),
    (∀ v, k < s.params.bufLen → s.buf.read? k = some v → laneRead s (s.params.bufBase.toNat + k) = some v)
    ∧ (s.params.bufLen ≤ k → laneRead s (s.params.bufBase.toNat + k) = none)
    ∧ (k < s.params.bufBase.toNat → laneRead s k = none)

/-! ### Reset -/

/-- R300, R301: at an edge with `rst = 1` every register is at its reset value whatever the conforming access and `tx_done` are,
and no byte of `buf` changes. (A non-conforming access is refused there too, by the model's choice, log 14:
`StopsOnlyAsSaid`.) -/
def Obligations.ResetEdgeState : Prop :=
  ∀ s : State, s.world.up = true → (currentPeriod s).powerLoss = false → (currentPeriod s).rst = true →
    (∀ a, presented s (currentPeriod s) = some a → a.flaw = none) →
    ∃ s', step s = .next s' ∧ s'.fsm = .idle ∧ s'.dly = 0#32 ∧ s'.idx = 0#16 ∧ s'.toCnt = 0#32 ∧ s'.armed = false
      ∧ s'.err = { ill := false, rng := false, rej := false, tmo := false } ∧ s'.color = 0#24 ∧ s'.timeout = 0#32
      ∧ s'.table.length = s.params.nLeds ∧ (∀ i < s.params.nLeds, s'.table[i]? = some 0#24)
      ∧ s'.buf = s.buf ∧ s'.params = s.params ∧ s'.txStart = false

/-- R52: the reset state, for every legal value of the parameters, and its `STATUS`. Nothing is said of `buf`. -/
def Obligations.ResetValues : Prop :=
  (∃ p, State.reset = State.resetWith p) ∧
  ∀ p : Params, (State.resetWith p).fsm = .idle ∧ (State.resetWith p).dly = 0#32 ∧ (State.resetWith p).idx = 0#16
    ∧ (State.resetWith p).toCnt = 0#32 ∧ (State.resetWith p).armed = false
    ∧ (State.resetWith p).err = { ill := false, rng := false, rej := false, tmo := false }
    ∧ (State.resetWith p).color = 0#24 ∧ (State.resetWith p).timeout = 0#32
    ∧ (State.resetWith p).table.length = p.nLeds
    ∧ (∀ i < p.nLeds, (State.resetWith p).table[i]? = some 0#24)
    ∧ (State.resetWith p).txStart = false
    ∧ statusWord (State.resetWith p) = 0#32

/-- R300, R52, R285: before a reset edge since power-up, with the power on, the machine is refused exactly when `rst = 0`; an
edge with `rst = 1` leaves every register at its reset value, and the machine up. A period that takes the clock or the power
away leaves a machine that needs a reset edge again (U14). That `buf` then lists no byte is how the model says that its
contents are unspecified (logs 5 and 7). -/
def Obligations.RefusedBeforeReset : Prop :=
  (∀ s : State, s.world.up = false → (currentPeriod s).powerLoss = false →
    (step s = .refused .noResetEdge ↔ (currentPeriod s).rst = false)
    ∧ ((currentPeriod s).rst = true → ∃ s', step s = .next s' ∧ s'.world.up = true ∧ s'.fsm = .idle ∧ s'.dly = 0#32
        ∧ s'.idx = 0#16 ∧ s'.toCnt = 0#32 ∧ s'.armed = false
        ∧ s'.err = { ill := false, rng := false, rej := false, tmo := false } ∧ s'.color = 0#24 ∧ s'.timeout = 0#32
        ∧ s'.table.length = s.params.nLeds ∧ (∀ i < s.params.nLeds, s'.table[i]? = some 0#24)
        ∧ s'.params = s.params ∧ s'.txStart = false ∧ s'.buf = []))
  ∧ ∀ s : State, (currentPeriod s).powerLoss = true → ∃ s', step s = .next s' ∧ s'.world.up = false

/-- In a state of the invariant the step never faults. At every edge of a block that has been reset it refuses every
non-conforming access (R75, U7), and it is refused only so or without a reset edge (R300). THE MODEL'S CHOICE (log 14): it
refuses such an access at a reset edge too, where R300 has the reset state "whatever the host access", and it names the
first flaw. -/
def Obligations.StopsOnlyAsSaid : Prop :=
  ∀ s : State, s.Inv →
    (∀ f, step s ≠ .fault f)
    ∧ (∀ a f, s.world.up = true → (currentPeriod s).powerLoss = false → presented s (currentPeriod s) = some a →
        a.flaw = some f → step s = .refused (.nonConforming f))
    ∧ ∀ r, step s = .refused r →
      (r = .noResetEdge ∧ s.world.up = false ∧ (currentPeriod s).rst = false)
      ∨ ∃ a f, r = .nonConforming f ∧ presented s (currentPeriod s) = some a ∧ a.flaw = some f

/-! ### The invariant -/

/-- The invariant holds after reset, for every legal value of the parameters. -/
def Obligations.InvariantAtReset : Prop := (∀ p : Params, (State.resetWith p).Inv) ∧ State.reset.Inv

/-- Every step keeps the invariant: the table's and the buffer's shape, the bounds of `idx` (R31) and `dly` (R228), the
encoder's bytes only in `buf` (R142, R149), no unspecified byte in `TRANSMITTING` or in a frame delivered (R234).
Over a loss of clock or power it is kept by the model's choice (log 7). -/
def Obligations.InvariantKeptByStep : Prop := ∀ s s' : State, s.Inv → step s = .next s' → s'.Inv

/-! ### The encoder -/

/-- R142: the closed form of `EncByte`, and the four bytes it makes. -/
def Obligations.EncByteClosedForm : Prop :=
  ∀ v : Byte, (∀ j : Fin 4, (encByte v)[j.val]? =
      some (0x88#8 ||| ((BitVec.ofBool (v.getLsbD (7 - 2 * j.val))).zeroExtend 8 <<< 6)
        ||| ((BitVec.ofBool (v.getLsbD (6 - 2 * j.val))).zeroExtend 8 <<< 2)))
    ∧ ∀ b ∈ encByte v, b = 0x88#8 ∨ b = 0x8C#8 ∨ b = 0xC8#8 ∨ b = 0xCC#8

/-- R148: `DecByte(EncByte(v)) = v` for every `v`, and `DecFrame(EncFrame(t)) = t` for every table `t`. -/
def Obligations.FrameDecodesBack : Prop :=
  (∀ v x0 x1 x2 x3 : Byte, encByte v = [x0, x1, x2, x3] → decByte x0 x1 x2 x3 = some v)
  ∧ ∀ t : List Color, decFrame (encFrame t) = some t

/-- R144: the layout `buf[12*i + 4*c + j] = EncByte(channel_c(table[i]))[j]`, and the length `12 * N_LEDS`. -/
def Obligations.FrameLayout : Prop :=
  ∀ t : List Color, (encFrame t).length = 12 * t.length
    ∧ ∀ (i : Nat) (e : Color), t[i]? = some e → ∀ (c : Fin 3) (j : Fin 4),
        (encFrame t)[12 * i + 4 * c.val + j.val]? = (encByte (channel c e))[j.val]?

/-- R146, R147 over R143: on the wire a frame is its protocol bits in the order green, red, blue, most significant first, each
as its pulse: 1 high and 3 low for a 0, 2 high and 2 low for a 1; 96 wire bits an LED. -/
def Obligations.WireOfFrame : Prop :=
  ∀ t : List Color,
    wire (encFrame t) = (t.flatMap protocolBits).flatMap (fun b =>
      List.replicate (pulse b).1 true ++ List.replicate (pulse b).2 false)
    ∧ (wire (encFrame t)).length = 96 * t.length

/-! ### Runs -/

/-- R228: a delay state with `dly = d` holds for `d` more edges and is left at the next one, whatever conforming accesses the
host makes: `PRE_DELAY` for `FILLING`, `POST_DELAY` for `IDLE`. Entered with `d = T - 1` it lasts exactly `T` periods. -/
def Obligations.DelaysLastTicks : Prop :=
  ∀ s : State, Undisturbed s → (s.fsm = .preDelay ∨ s.fsm = .postDelay) →
    (∀ k ≤ s.dly.toNat, ∃ s', runSteps k s = .next s' ∧ s'.fsm = s.fsm ∧ s'.dly.toNat = s.dly.toNat - k)
    ∧ ∃ s', runSteps (s.dly.toNat + 1) s = .next s'
      ∧ (s.fsm = .preDelay → s'.fsm = .filling ∧ s'.idx = 0#16) ∧ (s.fsm = .postDelay → s'.fsm = .idle)

/-- R224: `FILLING` with `N_LEDS - idx` LEDs to go lasts that many edges, whatever conforming accesses the host makes, and
then enters `TRANSMITTING`. Entered with `idx = 0` it lasts exactly `N_LEDS` periods. -/
def Obligations.FillingLastsLeds : Prop :=
  ∀ s : State, s.Inv → Undisturbed s → s.fsm = .filling →
    (∀ k < s.params.nLeds - s.idx.toNat, ∃ s', runSteps k s = .next s' ∧ s'.fsm = .filling
      ∧ s'.idx.toNat = s.idx.toNat + k)
    ∧ ∃ s', runSteps (s.params.nLeds - s.idx.toNat) s = .next s' ∧ s'.fsm = .transmitting ∧ s'.armed = false

/-- R229: with `to_cnt = k >= 1`, `TRANSMITTING` lasts until the `k`-th edge, which enters `FAULT` with `err_to` set, whatever
conforming accesses the host makes (a `CLRERR` at that edge, or a `TIMEOUT` write, among them), if `tx_done` is low at the
edges that could honour it: edges 2 to `k`, and edge 1 too from a state that is already armed. -/
def Obligations.TimeoutAtBound : Prop :=
  ∀ s : State, Undisturbed s → s.fsm = .transmitting → 1 ≤ s.toCnt.toNat →
    (∀ i < s.toCnt.toNat, (0 < i ∨ s.armed = true) → ∃ p, s.world.env[i]? = some p ∧ p.tx = .low) →
    (∀ k < s.toCnt.toNat, ∃ s', runSteps k s = .next s' ∧ s'.fsm = .transmitting)
    ∧ ∃ s', runSteps s.toCnt.toNat s = .next s' ∧ s'.fsm = .fault ∧ s'.err.tmo = true

/-- R10, R225: with `to_cnt = 0` and a lane that does not complete, `TRANSMITTING` lasts as long as that lasts: the model admits
the hang. A `tx_done` at an edge that does not honour it does not end it. -/
def Obligations.HangAdmitted : Prop :=
  ∀ (s : State) (n : Nat), Undisturbed s → s.fsm = .transmitting → s.toCnt = 0#32 →
    (∀ i < n, (0 < i ∨ s.armed = true) → ∃ p, s.world.env[i]? = some p ∧ p.tx = .low) →
    ∃ s', runSteps n s = .next s' ∧ s'.fsm = .transmitting ∧ s'.toCnt = 0#32

/-- R224: while no access changes the table, the LEDs already encoded stand in `buf` as `EncFrame` has them, and on exit from
`FILLING` `buf = EncFrame(table)`. Over a loss of clock or power it is kept by the model's choice (log 7). -/
def Obligations.FillTracksTable : Prop :=
  ∀ s s' : State, s.Inv → EncodedSoFar s → step s = .next s' → s'.table = s.table → EncodedSoFar s'

/-- R224, R232, R80 items 2 to 4, R235: a `SHOW` written in `IDLE`, whatever conforming accesses come after it, with no reset,
delivers exactly one frame by the edge that samples `tx_start`, `1 + T_RESET_TICKS + N_LEDS + 1` edges later, whatever the lane
does meanwhile. LED `i` of it is the entry `i` of the table as it stands before the edge that encodes that LED,
`1 + T_RESET_TICKS + i` edges after the start; with only reads after the `SHOW` the frame is `EncFrame(table)`. -/
def Obligations.ShowDeliversEncFrame : Prop :=
  ∀ (s : State) (rest : List HostLine), s.Inv → Undisturbed s → s.fsm = .idle →
    s.world.prog = wr .cmd 0x30000000#32 :: rest →
    ∃ (s' : State) (f : List Byte), runSteps (s.params.tResetTicks + s.params.nLeds + 2) s = .next s'
      ∧ s'.world.frames = f :: s.world.frames ∧ f.length = s.params.bufLen
      ∧ (∀ i < s.params.nLeds, ∃ (x : State) (e : Color), runSteps (s.params.tResetTicks + 1 + i) s = .next x
          ∧ x.table[i]? = some e ∧ ∀ m < 12, f[12 * i + m]? = (encLed e)[m]?)
      ∧ ((∀ l ∈ rest, ∀ a, l ≠ .bus a) → f = encFrame s.table)

/-- R235, R236: the timeline of a successful frame, from the edge `e0` at which `SHOW` is accepted, whatever conforming accesses
come after it, with no reset, `tx_done` first honoured at the `j`-th edge of `TRANSMITTING`, `j >= 2`, and a bound loaded at
the entry to that state that is 0 or at least `j`: `BUSY` reads 1 in every period up to `e(2T + N + j)`, and that edge enters
`IDLE`, with no timeout reported. -/
def Obligations.SuccessfulShowTimeline : Prop :=
  ∀ (s : State) (rest : List HostLine) (j : Nat), s.Inv → Undisturbed s → s.fsm = .idle →
    s.world.prog = wr .cmd 0x30000000#32 :: rest → 2 ≤ j →
    (∀ x, runSteps (s.params.tResetTicks + s.params.nLeds + 1) s = .next x → x.toCnt = 0#32 ∨ j ≤ x.toCnt.toNat) →
    (∀ k, s.params.tResetTicks + s.params.nLeds + 1 < k → k < s.params.tResetTicks + s.params.nLeds + j →
      ∃ p, s.world.env[k]? = some p ∧ p.tx = .low) →
    (∃ p, s.world.env[s.params.tResetTicks + s.params.nLeds + j]? = some p ∧ p.tx = .high) →
    (∀ k, 1 ≤ k → k ≤ 2 * s.params.tResetTicks + s.params.nLeds + j →
      ∃ s', runSteps k s = .next s' ∧ (statusWord s').getLsbD 3 = true)
    ∧ ∃ s', runSteps (2 * s.params.tResetTicks + s.params.nLeds + j + 1) s = .next s' ∧ s'.fsm = .idle
      ∧ (s'.err.tmo = true → s.err.tmo = true)

/-- R237: the result of a `show` as the value of `STATUS` tells it. -/
def Obligations.ShowResultReadsStatus : Prop :=
  ∀ s : State,
    (showResult (statusWord s) = .inProgress ↔ s.fsm ≠ .idle ∧ s.fsm ≠ .fault)
    ∧ (showResult (statusWord s) = .succeeded ↔ s.fsm = .idle)
    ∧ (showResult (statusWord s) = .timedOut ↔ s.fsm = .fault)

/-- R80 item 3: a `SET` or a `FILL` at the edge that encodes an LED is stored, and the LED is encoded from its pre-edge entry. -/
def Obligations.FillingReadsPreEdgeEntry : Prop :=
  ∀ (s : State) (e : Color), PlainEdge s → s.Inv → s.fsm = .filling → s.table[s.idx.toNat]? = some e →
    (∀ index : Index, WritesCommand s (0x1000#16 ++ index) → index.toNat < s.params.nLeds →
      ∃ s', step s = .next s' ∧ s'.table[index.toNat]? = some s.color
        ∧ ∀ m < 12, s'.buf.read? (12 * s.idx.toNat + m) = (encLed e)[m]?)
    ∧ (WritesCommand s 0x20000000#32 →
      ∃ s', step s = .next s' ∧ (∀ i < s.params.nLeds, s'.table[i]? = some s.color)
        ∧ ∀ m < 12, s'.buf.read? (12 * s.idx.toNat + m) = (encLed e)[m]?)

/-- The lane-busy ghost bit of U10 and the mark of U11, THE MODEL'S CHOICES (logs 7, 8, 9, 11 and 26): in every period the bit is
set exactly by the lane's sampling of `tx_start` at an edge of a block that has been reset, and kept until a completion or a
reset of the lane, not a reset of the block (R301) or a loss of its power; the mark is set exactly by a `tx_done` that finds no
transfer outstanding. A completion the lane draws (log 2) is one of a transfer outstanding (R231 item 3). -/
def Obligations.LaneBusyFollowsTransfer : Prop :=
  ∀ s s' : State, step s = .next s' →
    (s'.world.laneBusy = true ↔
      (s.world.up = true ∧ (currentPeriod s).powerLoss = false ∧ s.txStart = true)
      ∨ (s.world.laneBusy = true ∧ (currentPeriod s).laneReset = false ∧ txDone s (currentPeriod s) = false))
    ∧ (s'.world.marks.laneBroken = true ↔ s.world.marks.laneBroken = true
      ∨ (txDone s (currentPeriod s) = true ∧ (s.world.laneBusy = false ∨ (currentPeriod s).laneReset = true)))
    ∧ ((currentPeriod s).tx = .low → txDone s (currentPeriod s) = false)
    ∧ ((currentPeriod s).tx = .high → txDone s (currentPeriod s) = true)
    ∧ ((currentPeriod s).tx = .drawn → txDone s (currentPeriod s) = true →
        s.world.laneBusy = true ∧ (currentPeriod s).laneReset = false)

/-- R307, U10, D18, as the model treats them (THE MODEL'S CHOICE, logs 8 and 11): a `SHOW` accepted, or a `RECOVER` in `FAULT`,
while the lane still runs is marked; nothing else sets these marks, and no step ever takes a mark away. -/
def Obligations.LaneOverlapMarked : Prop :=
  (∀ s : State, PlainEdge s → laneRunning s (currentPeriod s) = true → txDone s (currentPeriod s) = false →
    (s.fsm = .idle → WritesCommand s 0x30000000#32 →
      ∃ s', step s = .next s' ∧ s'.fsm = .preDelay ∧ s'.world.marks.showBusy = true)
    ∧ (s.fsm = .fault → WritesCommand s 0x40000000#32 →
      ∃ s', step s = .next s' ∧ s'.fsm = .postDelay ∧ s'.world.marks.recoverBusy = true))
  ∧ ∀ s s' : State, step s = .next s' →
      (s.world.marks.showBusy = true → s'.world.marks.showBusy = true)
      ∧ (s.world.marks.recoverBusy = true → s'.world.marks.recoverBusy = true)
      ∧ (s.world.marks.laneBroken = true → s'.world.marks.laneBroken = true)
      ∧ (s'.world.marks.showBusy = true → s.world.marks.showBusy = true
          ∨ (s.fsm = .idle ∧ WritesCommand s 0x30000000#32 ∧ laneRunning s (currentPeriod s) = true
            ∧ txDone s (currentPeriod s) = false))
      ∧ (s'.world.marks.recoverBusy = true → s.world.marks.recoverBusy = true
          ∨ (s.fsm = .fault ∧ WritesCommand s 0x40000000#32 ∧ laneRunning s (currentPeriod s) = true
            ∧ txDone s (currentPeriod s) = false))

/-- R108: the expansions of the pseudo-instructions. -/
def Obligations.PseudoExpansions : Prop :=
  Pseudo.nop.expand = [wr .cmd 0x00000000#32]
  ∧ (∀ (i : Index) (r g b : Byte), ∃ c w : Word, (Pseudo.setLed i r g b).expand = [wr .color c, wr .cmd w]
      ∧ c.toNat = r.toNat * 65536 + g.toNat * 256 + b.toNat ∧ w.toNat = 0x10000000 + i.toNat)
  ∧ (∀ i : Index, ∃ w : Word, (Pseudo.setI i).expand = [wr .cmd w] ∧ w.toNat = 0x10000000 + i.toNat)
  ∧ (∀ r g b : Byte, ∃ c : Word, (Pseudo.fillAll r g b).expand = [wr .color c, wr .cmd 0x20000000#32]
      ∧ c.toNat = r.toNat * 65536 + g.toNat * 256 + b.toNat)
  ∧ Pseudo.showFrame.expand = [wr .cmd 0x30000000#32]
  ∧ Pseudo.recover.expand = [wr .cmd 0x40000000#32]
  ∧ Pseudo.clrErr.expand = [wr .cmd 0x50000000#32]
  ∧ Pseudo.waitDone.expand = [.poll .status 0x00000008#32 0x00000000#32]
  ∧ ∀ name, (Pseudo.showSync name).expand = Pseudo.showFrame.expand ++ Pseudo.waitDone.expand ++ [.rd .status name]

/-- The marks, the observation and the host's bound names never steer the block (derived: the block's rules name none of
them). -/
def Obligations.GhostsDoNotSteerBlock : Prop :=
  ∀ (s s' : State) (m : Marks) (reads : List Word) (frames : List (List Byte)) (vars : List (String × Word)),
    step s = .next s' →
    ∃ t', step { s with world := { s.world with marks := m, reads := reads, frames := frames, vars := vars } } = .next t'
      ∧ t' = { s' with world := t'.world }

/-- R6, U15: exactly the legal parameter values elaborate, to parameters that read as given. Rates are rational numbers, and
the mode a natural one, by the model's choice (log 1). -/
def Obligations.ElaborationRange : Prop :=
  ∀ (n t base : Nat) (bufBase laneDr : Word) (clk rate : Rat) (mode : Nat),
    ((Params.elaborate n t base bufBase laneDr clk rate mode).isSome = true ↔
      (1 ≤ n ∧ n ≤ 65535) ∧ (1 ≤ t ∧ t ≤ 2 ^ 32 - 1) ∧ base % 32 = 0 ∧ 0 < clk ∧ 0 < rate)
    ∧ ∀ p, Params.elaborate n t base bufBase laneDr clk rate mode = some p →
        p.nLeds = n ∧ p.tResetTicks = t ∧ p.regBase = base ∧ p.bufBase = bufBase ∧ p.laneDr = laneDr
        ∧ p.fClk = clk ∧ p.laneBitrate = rate ∧ p.laneMode = mode ∧ p.bufLen = 12 * n
end

