-- ==== Sys2Proof/Laws/Memory.lean ====
section
/-! SUPPORT. The laws of `buf`'s cells: read after write, the canonical form, and what a row of byte writes does. -/

namespace Sys2Proof.Machine

theorem Memory.read?_write (m : Memory) (k j : Nat) (v : Byte) :
    (m.write k v).read? j = if j = k then some v else m.read? j := by
  induction m with
  | nil => simp [Memory.write, Memory.read?]
  | cons c m ih =>
    simp only [Memory.write]
    split
    · simp [Memory.read?]
    · split
      · rename_i h; subst h; simp only [Memory.read?]; split <;> rfl
      · rename_i h1 h2
        simp only [Memory.read?, ih]
        by_cases hj : j = c.1
        · have : j ≠ k := by omega
          simp [hj]; intro h; omega
        · simp [hj]

@[simp] theorem Memory.read?_write_same (m : Memory) (k : Nat) (v : Byte) : (m.write k v).read? k = some v := by
  simp [Memory.read?_write]

theorem Memory.read?_write_other (m : Memory) {k j : Nat} (v : Byte) (h : j ≠ k) :
    (m.write k v).read? j = m.read? j := by simp [Memory.read?_write, h]

/-- Every cell of a written buffer is the cell written or one that was there. -/
theorem Memory.mem_write {m : Memory} {k : Nat} {v : Byte} {d : Host.Cell} (h : d ∈ m.write k v) :
    d = (k, v) ∨ d ∈ m := by
  induction m with
  | nil => simpa [Memory.write] using h
  | cons c m ih =>
    simp only [Memory.write] at h
    split at h
    · simpa using h
    · split at h
      · rcases List.mem_cons.1 h with h | h
        · exact .inl h
        · exact .inr (List.mem_cons_of_mem _ h)
      · rcases List.mem_cons.1 h with h | h
        · exact .inr (h ▸ List.mem_cons_self)
        · exact (ih h).imp id (List.mem_cons_of_mem _)

theorem Memory.write_wf {m : Memory} (k : Nat) (v : Byte) (h : m.wf) : (m.write k v).wf := by
  induction m with
  | nil => simp [Memory.write, Memory.wf]
  | cons c m ih =>
    obtain ⟨hc, hm⟩ := List.pairwise_cons.1 h
    simp only [Memory.write]
    split
    · rename_i hk
      refine List.pairwise_cons.2 ⟨fun d hd => ?_, h⟩
      rcases List.mem_cons.1 hd with rfl | hd
      · exact hk
      · exact Nat.lt_trans hk (hc d hd)
    · split
      · rename_i hk; subst hk; exact List.pairwise_cons.2 ⟨hc, hm⟩
      · refine List.pairwise_cons.2 ⟨fun d hd => ?_, ih hm⟩
        rcases Memory.mem_write hd with rfl | hd
        · show c.1 < k; omega
        · exact hc d hd

theorem Memory.writeAll_wf {m : Memory} (cs : List Host.Cell) (h : m.wf) : (m.writeAll cs).wf := by
  induction cs generalizing m with
  | nil => exact h
  | cons c cs ih => exact ih (Memory.write_wf _ _ h)

theorem Memory.mem_writeAll {m : Memory} {cs : List Host.Cell} {d : Host.Cell} (h : d ∈ m.writeAll cs) :
    d ∈ cs ∨ d ∈ m := by
  induction cs generalizing m with
  | nil => exact .inr h
  | cons c cs ih =>
    rcases ih h with h | h
    · exact .inl (List.mem_cons_of_mem _ h)
    · rcases Memory.mem_write h with h | h
      · exact .inl (h ▸ List.mem_cons_self)
      · exact .inr h

@[simp] theorem Memory.writeAll_nil (m : Memory) : m.writeAll [] = m := rfl

theorem Memory.exists_mem_of_read? {m : Memory} {k : Nat} {v : Byte} (h : m.read? k = some v) : (k, v) ∈ m := by
  induction m with
  | nil => simp [Memory.read?] at h
  | cons c m ih =>
    simp only [Memory.read?] at h
    split at h
    · rename_i hk; cases h; subst hk; exact List.mem_cons_self
    · exact List.mem_cons_of_mem _ (ih h)

/-- A row of byte writes from index `k` on: the bytes of the row inside it, everything else as before. -/
theorem Memory.read?_writeAll_bytesAt (m : Memory) (k j : Nat) (vs : List Byte) :
    (m.writeAll (bytesAt k vs)).read? j = if k ≤ j ∧ j < k + vs.length then vs[j - k]? else m.read? j := by
  induction vs generalizing m k with
  | nil =>
    rw [if_neg (by simp only [List.length_nil]; omega)]
    rfl
  | cons v vs ih =>
    simp only [bytesAt, Memory.writeAll, ih, Memory.read?_write, List.length_cons]
    by_cases h0 : j = k
    · subst h0
      rw [if_neg (by omega), if_pos (by omega)]; simp
    · by_cases h1 : k + 1 ≤ j ∧ j < k + 1 + vs.length
      · have h2 : k ≤ j ∧ j < k + (vs.length + 1) := by omega
        obtain ⟨n, hn⟩ : ∃ n, j - k = n + 1 := ⟨j - k - 1, by omega⟩
        have hn' : j - (k + 1) = n := by omega
        rw [if_pos h1, if_pos h2, hn, hn', List.getElem?_cons_succ]
      · have h2 : ¬ (k ≤ j ∧ j < k + (vs.length + 1)) := by omega
        rw [if_neg h1, if_neg h0, if_neg h2]

theorem mem_bytesAt {k : Nat} {vs : List Byte} {d : Host.Cell} (h : d ∈ bytesAt k vs) :
    k ≤ d.1 ∧ d.1 < k + vs.length ∧ d.2 ∈ vs := by
  induction vs generalizing k with
  | nil => simp [bytesAt] at h
  | cons v vs ih =>
    rcases List.mem_cons.1 h with rfl | h
    · simp
    · obtain ⟨h1, h2, h3⟩ := ih h
      exact ⟨by omega, by simp only [List.length_cons]; omega, List.mem_cons_of_mem _ h3⟩

/-! ### The encoder's shapes -/

@[simp] theorem length_encByte (v : Byte) : (encByte v).length = 4 := rfl

@[simp] theorem length_encLed (e : Color) : (encLed e).length = 12 := rfl

/-- `EncByte` by pairs of protocol bits: byte `j` carries bits `7 - 2j` and `6 - 2j`. -/
theorem encByte_eq_pairs (v : Byte) : encByte v =
    [encBit (v.getLsbD 7) ++ encBit (v.getLsbD 6), encBit (v.getLsbD 5) ++ encBit (v.getLsbD 4),
     encBit (v.getLsbD 3) ++ encBit (v.getLsbD 2), encBit (v.getLsbD 1) ++ encBit (v.getLsbD 0)] := by
  simp only [encByte, encAcc]
  generalize v.getLsbD 7 = b7
  generalize v.getLsbD 6 = b6
  generalize v.getLsbD 5 = b5
  generalize v.getLsbD 4 = b4
  generalize v.getLsbD 3 = b3
  generalize v.getLsbD 2 = b2
  generalize v.getLsbD 1 = b1
  generalize v.getLsbD 0 = b0
  revert b7 b6 b5 b4 b3 b2 b1 b0
  decide +kernel

theorem isEncodedByte_pair : ∀ a b : Bool, isEncodedByte (encBit a ++ encBit b) = true := by decide

theorem isEncodedByte_of_mem_encByte {v b : Byte} (h : b ∈ encByte v) : isEncodedByte b = true := by
  rw [encByte_eq_pairs] at h
  simp only [List.mem_cons, List.not_mem_nil, or_false] at h
  rcases h with rfl | rfl | rfl | rfl <;> exact isEncodedByte_pair _ _

theorem isEncodedByte_of_mem_encLed {e : Color} {b : Byte} (h : b ∈ encLed e) : isEncodedByte b = true := by
  simp only [encLed, List.mem_append] at h
  rcases h with (h | h) | h <;> exact isEncodedByte_of_mem_encByte h

end Sys2Proof.Machine
end

