-- ==== Sys2Proof/Laws/State.lean ====
section
/-! SUPPORT. One lemma per field per named update of the state, so that no later proof unfolds one. -/

namespace Sys2Proof.Machine

/-! ### `pushRead` -/

@[simp] theorem State.pushRead_params (s : State) (v : Word) : (s.pushRead v).params = s.params := rfl
@[simp] theorem State.pushRead_fsm (s : State) (v : Word) : (s.pushRead v).fsm = s.fsm := rfl
@[simp] theorem State.pushRead_dly (s : State) (v : Word) : (s.pushRead v).dly = s.dly := rfl
@[simp] theorem State.pushRead_idx (s : State) (v : Word) : (s.pushRead v).idx = s.idx := rfl
@[simp] theorem State.pushRead_toCnt (s : State) (v : Word) : (s.pushRead v).toCnt = s.toCnt := rfl
@[simp] theorem State.pushRead_armed (s : State) (v : Word) : (s.pushRead v).armed = s.armed := rfl
@[simp] theorem State.pushRead_err (s : State) (v : Word) : (s.pushRead v).err = s.err := rfl
@[simp] theorem State.pushRead_color (s : State) (v : Word) : (s.pushRead v).color = s.color := rfl
@[simp] theorem State.pushRead_timeout (s : State) (v : Word) : (s.pushRead v).timeout = s.timeout := rfl
@[simp] theorem State.pushRead_table (s : State) (v : Word) : (s.pushRead v).table = s.table := rfl
@[simp] theorem State.pushRead_buf (s : State) (v : Word) : (s.pushRead v).buf = s.buf := rfl
@[simp] theorem State.pushRead_world (s : State) (v : Word) :
    (s.pushRead v).world = { s.world with reads := v :: s.world.reads } := rfl

/-! ### `request` -/

@[simp] theorem State.request_params (s : State) (r : Requests) : (s.request r).params = s.params := rfl
@[simp] theorem State.request_fsm (s : State) (r : Requests) : (s.request r).fsm = s.fsm := rfl
@[simp] theorem State.request_dly (s : State) (r : Requests) : (s.request r).dly = s.dly := rfl
@[simp] theorem State.request_idx (s : State) (r : Requests) : (s.request r).idx = s.idx := rfl
@[simp] theorem State.request_toCnt (s : State) (r : Requests) : (s.request r).toCnt = s.toCnt := rfl
@[simp] theorem State.request_armed (s : State) (r : Requests) : (s.request r).armed = s.armed := rfl
@[simp] theorem State.request_err (s : State) (r : Requests) : (s.request r).err = s.err.update r := rfl
@[simp] theorem State.request_color (s : State) (r : Requests) : (s.request r).color = s.color := rfl
@[simp] theorem State.request_timeout (s : State) (r : Requests) : (s.request r).timeout = s.timeout := rfl
@[simp] theorem State.request_table (s : State) (r : Requests) : (s.request r).table = s.table := rfl
@[simp] theorem State.request_buf (s : State) (r : Requests) : (s.request r).buf = s.buf := rfl
@[simp] theorem State.request_world (s : State) (r : Requests) : (s.request r).world = s.world := rfl

/-! ### `enterDelay` -/

@[simp] theorem State.enterDelay_params (s : State) (d : FrameState) : (s.enterDelay d).params = s.params := rfl
@[simp] theorem State.enterDelay_fsm (s : State) (d : FrameState) : (s.enterDelay d).fsm = d := rfl
@[simp] theorem State.enterDelay_dly (s : State) (d : FrameState) : (s.enterDelay d).dly = dlyLoad s := rfl
@[simp] theorem State.enterDelay_idx (s : State) (d : FrameState) : (s.enterDelay d).idx = s.idx := rfl
@[simp] theorem State.enterDelay_toCnt (s : State) (d : FrameState) : (s.enterDelay d).toCnt = s.toCnt := rfl
@[simp] theorem State.enterDelay_armed (s : State) (d : FrameState) : (s.enterDelay d).armed = s.armed := rfl
@[simp] theorem State.enterDelay_err (s : State) (d : FrameState) : (s.enterDelay d).err = s.err := rfl
@[simp] theorem State.enterDelay_color (s : State) (d : FrameState) : (s.enterDelay d).color = s.color := rfl
@[simp] theorem State.enterDelay_timeout (s : State) (d : FrameState) : (s.enterDelay d).timeout = s.timeout := rfl
@[simp] theorem State.enterDelay_table (s : State) (d : FrameState) : (s.enterDelay d).table = s.table := rfl
@[simp] theorem State.enterDelay_buf (s : State) (d : FrameState) : (s.enterDelay d).buf = s.buf := rfl
@[simp] theorem State.enterDelay_world (s : State) (d : FrameState) : (s.enterDelay d).world = s.world := rfl

/-! ### `leaveFault` -/

@[simp] theorem State.leaveFault_params (s : State) : (s.leaveFault).params = s.params := rfl
@[simp] theorem State.leaveFault_fsm (s : State) : (s.leaveFault).fsm = FrameState.postDelay := rfl
@[simp] theorem State.leaveFault_dly (s : State) : (s.leaveFault).dly = dlyLoad s := rfl
@[simp] theorem State.leaveFault_idx (s : State) : (s.leaveFault).idx = s.idx := rfl
@[simp] theorem State.leaveFault_toCnt (s : State) : (s.leaveFault).toCnt = s.toCnt := rfl
@[simp] theorem State.leaveFault_armed (s : State) : (s.leaveFault).armed = s.armed := rfl
@[simp] theorem State.leaveFault_err (s : State) : (s.leaveFault).err = s.err := rfl
@[simp] theorem State.leaveFault_color (s : State) : (s.leaveFault).color = s.color := rfl
@[simp] theorem State.leaveFault_timeout (s : State) : (s.leaveFault).timeout = s.timeout := rfl
@[simp] theorem State.leaveFault_table (s : State) : (s.leaveFault).table = s.table := rfl
@[simp] theorem State.leaveFault_buf (s : State) : (s.leaveFault).buf = s.buf := rfl
@[simp] theorem State.leaveFault_world (s : State) : (s.leaveFault).world = s.world := rfl

/-! ### `markShow` -/

@[simp] theorem State.markShow_params (s : State) : (s.markShow).params = s.params := rfl
@[simp] theorem State.markShow_fsm (s : State) : (s.markShow).fsm = s.fsm := rfl
@[simp] theorem State.markShow_dly (s : State) : (s.markShow).dly = s.dly := rfl
@[simp] theorem State.markShow_idx (s : State) : (s.markShow).idx = s.idx := rfl
@[simp] theorem State.markShow_toCnt (s : State) : (s.markShow).toCnt = s.toCnt := rfl
@[simp] theorem State.markShow_armed (s : State) : (s.markShow).armed = s.armed := rfl
@[simp] theorem State.markShow_err (s : State) : (s.markShow).err = s.err := rfl
@[simp] theorem State.markShow_color (s : State) : (s.markShow).color = s.color := rfl
@[simp] theorem State.markShow_timeout (s : State) : (s.markShow).timeout = s.timeout := rfl
@[simp] theorem State.markShow_table (s : State) : (s.markShow).table = s.table := rfl
@[simp] theorem State.markShow_buf (s : State) : (s.markShow).buf = s.buf := rfl
@[simp] theorem State.markShow_world (s : State) :
    (s.markShow).world = { s.world with marks := { s.world.marks with showBusy := s.world.marks.showBusy || s.world.laneBusy } } := rfl

/-! ### `markRecover` -/

@[simp] theorem State.markRecover_params (s : State) : (s.markRecover).params = s.params := rfl
@[simp] theorem State.markRecover_fsm (s : State) : (s.markRecover).fsm = s.fsm := rfl
@[simp] theorem State.markRecover_dly (s : State) : (s.markRecover).dly = s.dly := rfl
@[simp] theorem State.markRecover_idx (s : State) : (s.markRecover).idx = s.idx := rfl
@[simp] theorem State.markRecover_toCnt (s : State) : (s.markRecover).toCnt = s.toCnt := rfl
@[simp] theorem State.markRecover_armed (s : State) : (s.markRecover).armed = s.armed := rfl
@[simp] theorem State.markRecover_err (s : State) : (s.markRecover).err = s.err := rfl
@[simp] theorem State.markRecover_color (s : State) : (s.markRecover).color = s.color := rfl
@[simp] theorem State.markRecover_timeout (s : State) : (s.markRecover).timeout = s.timeout := rfl
@[simp] theorem State.markRecover_table (s : State) : (s.markRecover).table = s.table := rfl
@[simp] theorem State.markRecover_buf (s : State) : (s.markRecover).buf = s.buf := rfl
@[simp] theorem State.markRecover_world (s : State) :
    (s.markRecover).world = { s.world with marks := { s.world.marks with recoverBusy := s.world.marks.recoverBusy || s.world.laneBusy } } := rfl

/-! ### `applyFsm` -/

@[simp] theorem State.applyFsm_params (s : State) (u : FsmUpdate) : (s.applyFsm u).params = s.params := rfl
@[simp] theorem State.applyFsm_fsm (s : State) (u : FsmUpdate) : (s.applyFsm u).fsm = u.fsm.getD s.fsm := rfl
@[simp] theorem State.applyFsm_dly (s : State) (u : FsmUpdate) : (s.applyFsm u).dly = u.dly.getD s.dly := rfl
@[simp] theorem State.applyFsm_idx (s : State) (u : FsmUpdate) : (s.applyFsm u).idx = u.idx.getD s.idx := rfl
@[simp] theorem State.applyFsm_toCnt (s : State) (u : FsmUpdate) : (s.applyFsm u).toCnt = u.toCnt.getD s.toCnt := rfl
@[simp] theorem State.applyFsm_armed (s : State) (u : FsmUpdate) : (s.applyFsm u).armed = u.armed.getD s.armed := rfl
@[simp] theorem State.applyFsm_err (s : State) (u : FsmUpdate) :
    (s.applyFsm u).err = s.err.update { tmo := u.setTo } := rfl
@[simp] theorem State.applyFsm_color (s : State) (u : FsmUpdate) : (s.applyFsm u).color = s.color := rfl
@[simp] theorem State.applyFsm_timeout (s : State) (u : FsmUpdate) : (s.applyFsm u).timeout = s.timeout := rfl
@[simp] theorem State.applyFsm_table (s : State) (u : FsmUpdate) : (s.applyFsm u).table = s.table := rfl
@[simp] theorem State.applyFsm_buf (s : State) (u : FsmUpdate) : (s.applyFsm u).buf = s.buf.writeAll u.bufWrites := rfl
@[simp] theorem State.applyFsm_world (s : State) (u : FsmUpdate) : (s.applyFsm u).world = s.world := rfl

/-! ### `resetBlock` -/

@[simp] theorem State.resetBlock_params (s : State) : (s.resetBlock).params = s.params := rfl
@[simp] theorem State.resetBlock_fsm (s : State) : (s.resetBlock).fsm = FrameState.idle := rfl
@[simp] theorem State.resetBlock_dly (s : State) : (s.resetBlock).dly = 0#32 := rfl
@[simp] theorem State.resetBlock_idx (s : State) : (s.resetBlock).idx = 0#16 := rfl
@[simp] theorem State.resetBlock_toCnt (s : State) : (s.resetBlock).toCnt = 0#32 := rfl
@[simp] theorem State.resetBlock_armed (s : State) : (s.resetBlock).armed = false := rfl
@[simp] theorem State.resetBlock_err (s : State) : (s.resetBlock).err = ErrFlags.clear := rfl
@[simp] theorem State.resetBlock_color (s : State) : (s.resetBlock).color = 0#24 := rfl
@[simp] theorem State.resetBlock_timeout (s : State) : (s.resetBlock).timeout = 0#32 := rfl
@[simp] theorem State.resetBlock_table (s : State) :
    (s.resetBlock).table = List.replicate s.params.nLeds 0#24 := rfl
@[simp] theorem State.resetBlock_buf (s : State) : (s.resetBlock).buf = s.buf := rfl
@[simp] theorem State.resetBlock_world (s : State) : (s.resetBlock).world = s.world := rfl

/-! ### `beginPeriod` -/

@[simp] theorem beginPeriod_params (s : State) (p : Period) : (beginPeriod s p).params = s.params := rfl
@[simp] theorem beginPeriod_fsm (s : State) (p : Period) : (beginPeriod s p).fsm = s.fsm := rfl
@[simp] theorem beginPeriod_dly (s : State) (p : Period) : (beginPeriod s p).dly = s.dly := rfl
@[simp] theorem beginPeriod_idx (s : State) (p : Period) : (beginPeriod s p).idx = s.idx := rfl
@[simp] theorem beginPeriod_toCnt (s : State) (p : Period) : (beginPeriod s p).toCnt = s.toCnt := rfl
@[simp] theorem beginPeriod_armed (s : State) (p : Period) : (beginPeriod s p).armed = s.armed := rfl
@[simp] theorem beginPeriod_err (s : State) (p : Period) : (beginPeriod s p).err = s.err := rfl
@[simp] theorem beginPeriod_color (s : State) (p : Period) : (beginPeriod s p).color = s.color := rfl
@[simp] theorem beginPeriod_timeout (s : State) (p : Period) : (beginPeriod s p).timeout = s.timeout := rfl
@[simp] theorem beginPeriod_table (s : State) (p : Period) : (beginPeriod s p).table = s.table := rfl
@[simp] theorem beginPeriod_buf (s : State) (p : Period) : (beginPeriod s p).buf = s.buf := rfl
@[simp] theorem beginPeriod_world_up (s : State) (p : Period) :
    (beginPeriod s p).world.up = s.world.up := rfl
@[simp] theorem beginPeriod_world_env (s : State) (p : Period) :
    (beginPeriod s p).world.env = s.world.env := rfl
@[simp] theorem beginPeriod_world_prog (s : State) (p : Period) :
    (beginPeriod s p).world.prog = s.world.prog := rfl
@[simp] theorem beginPeriod_world_vars (s : State) (p : Period) :
    (beginPeriod s p).world.vars = s.world.vars := rfl
@[simp] theorem beginPeriod_world_reads (s : State) (p : Period) :
    (beginPeriod s p).world.reads = s.world.reads := rfl
@[simp] theorem beginPeriod_world_frames (s : State) (p : Period) :
    (beginPeriod s p).world.frames = s.world.frames := rfl
@[simp] theorem beginPeriod_world_tick (s : State) (p : Period) :
    (beginPeriod s p).world.tick = s.world.tick := rfl
@[simp] theorem beginPeriod_world_epoch (s : State) (p : Period) :
    (beginPeriod s p).world.epoch = s.world.epoch := rfl
@[simp] theorem beginPeriod_world_laneBusy (s : State) (p : Period) :
    (beginPeriod s p).world.laneBusy = (laneRunning s p && !txDone s p) := rfl
@[simp] theorem beginPeriod_txStart (s : State) (p : Period) : (beginPeriod s p).txStart = s.txStart := rfl


/-! ### `endWorld` -/

@[simp] theorem endWorld_env (s : State) (p : Period) (w : World) : (endWorld s p w).env = w.env.tail := rfl
@[simp] theorem endWorld_prog (s : State) (p : Period) (w : World) : (endWorld s p w).prog = progAfter s p := rfl
@[simp] theorem endWorld_vars (s : State) (p : Period) (w : World) : (endWorld s p w).vars = varsAfter s := rfl
@[simp] theorem endWorld_tick (s : State) (p : Period) (w : World) : (endWorld s p w).tick = w.tick + 1 := rfl
@[simp] theorem endWorld_up (s : State) (p : Period) (w : World) : (endWorld s p w).up = w.up := by
  simp only [endWorld, laneSample]; split <;> rfl
@[simp] theorem endWorld_reads (s : State) (p : Period) (w : World) : (endWorld s p w).reads = w.reads := by
  simp only [endWorld, laneSample]; split <;> rfl
@[simp] theorem endWorld_marks (s : State) (p : Period) (w : World) : (endWorld s p w).marks = w.marks := by
  simp only [endWorld, laneSample]; split <;> rfl
@[simp] theorem endWorld_epoch (s : State) (p : Period) (w : World) : (endWorld s p w).epoch = w.epoch := by
  simp only [endWorld, laneSample]; split <;> rfl
@[simp] theorem endWorld_laneBusy (s : State) (p : Period) (w : World) :
    (endWorld s p w).laneBusy = (s.txStart || w.laneBusy) := by
  simp only [endWorld, laneSample]; split <;> simp_all
@[simp] theorem endWorld_frames (s : State) (p : Period) (w : World) :
    (endWorld s p w).frames = if s.txStart then deliveredFrame s :: w.frames else w.frames := by
  simp only [endWorld, laneSample]; split <;> rfl

/-! ### `ErrFlags.update` -/

@[simp] theorem ErrFlags.update_none (f : ErrFlags) : f.update {} = f := by simp [ErrFlags.update]
@[simp] theorem ErrFlags.update_tmo (f : ErrFlags) (b : Bool) :
    f.update { tmo := b } = { f with tmo := b || f.tmo } := by simp [ErrFlags.update]

end Sys2Proof.Machine
end

