-- ==== Sys2Proof/Laws/Exec.lean ====
section
/-! SUPPORT. What one host access, the frame state machine and one step can do, said once. -/

namespace Sys2Proof.Machine

/-- Everything a host access can do to the state it is run on. -/
inductive HostEffect (s : State) : State → Prop where
  | none : HostEffect s s
  | read (v : Word) : HostEffect s (s.pushRead v)
  | color (c : Color) : HostEffect s { s with color := c }
  | timeout (w : Word) : HostEffect s { s with timeout := w }
  | error (c : ErrorCause) (h : c ≠ .txTimeout) : HostEffect s (s.request (raise c))
  | clear : HostEffect s (s.request clearRequest)
  | setLed (k : Nat) (h : k < s.params.nLeds) : HostEffect s { s with table := s.table.set k s.color }
  | fillTable : HostEffect s { s with table := List.replicate s.params.nLeds s.color }
  | showFrame (h : s.fsm = .idle) : HostEffect s (s.markShow.enterDelay .preDelay)
  | recover (h : s.fsm = .fault) : HostEffect s s.markRecover.leaveFault

theorem execCmdSet_effect (index : Index) (s : State) : ∃ t, execCmdSet index s = .next t ∧ HostEffect s t := by
  refine ⟨_, rfl, ?_⟩
  split
  · rename_i h; exact .setLed _ h
  · exact .error _ (by decide)

theorem execCmdShow_effect (s : State) : ∃ t, execCmdShow s = .next t ∧ HostEffect s t := by
  refine ⟨_, rfl, ?_⟩
  split
  · rename_i h; exact .showFrame h
  · exact .error _ (by decide)

theorem execCmdRecover_effect (s : State) : ∃ t, execCmdRecover s = .next t ∧ HostEffect s t := by
  refine ⟨_, rfl, ?_⟩
  split
  · rename_i h; exact .recover h
  · exact .none

theorem execWrCmd_effect (w : Word) (s : State) : ∃ t, execWrCmd w s = .next t ∧ HostEffect s t := by
  simp only [execWrCmd]
  split
  · split
    · exact ⟨_, rfl, .none⟩
    · split
      · exact execCmdSet_effect _ _
      · split
        · exact ⟨_, rfl, .fillTable⟩
        · split
          · exact execCmdShow_effect _
          · split
            · exact execCmdRecover_effect _
            · exact ⟨_, rfl, .clear⟩
  · exact ⟨_, rfl, .error _ (by decide)⟩

/-- A host access always completes, with one of the effects listed. -/
theorem exec_effect (i : Instr) (s : State) : ∃ t, exec i s = .next t ∧ HostEffect s t := by
  cases i with
  | rdCmd => exact ⟨_, rfl, .read _⟩
  | rdColor => exact ⟨_, rfl, .read _⟩
  | rdStatus => exact ⟨_, rfl, .read _⟩
  | rdNleds => exact ⟨_, rfl, .read _⟩
  | rdResetTicks => exact ⟨_, rfl, .read _⟩
  | rdTimeout => exact ⟨_, rfl, .read _⟩
  | rdRsvd a => exact ⟨_, rfl, .read _⟩
  | wrCmd w => exact execWrCmd_effect w s
  | wrColor w => exact ⟨_, rfl, .color _⟩
  | wrStatus w => exact ⟨_, rfl, .none⟩
  | wrNleds w => exact ⟨_, rfl, .none⟩
  | wrResetTicks w => exact ⟨_, rfl, .none⟩
  | wrTimeout w => exact ⟨_, rfl, .timeout _⟩
  | wrRsvd a w => exact ⟨_, rfl, .none⟩
  | cmdNop => exact ⟨_, rfl, .none⟩
  | cmdSet index => exact execCmdSet_effect index s
  | cmdFill => exact ⟨_, rfl, .fillTable⟩
  | cmdShow => exact execCmdShow_effect s
  | cmdRecover => exact execCmdRecover_effect s
  | cmdClrerr => exact ⟨_, rfl, .clear⟩
  | illegalOp67 w => exact ⟨_, rfl, .error _ (by decide)⟩
  | illegalOp8F w => exact ⟨_, rfl, .error _ (by decide)⟩

theorem hostEffect_of_exec {i : Instr} {s t : State} (h : exec i s = .next t) : HostEffect s t := by
  obtain ⟨u, hu, he⟩ := exec_effect i s
  rw [hu] at h
  cases h
  exact he

/-- The host's half of an edge that goes on: nothing presented, or a decoded access run. -/
theorem hostHalf_cases {s t : State} {p : Period} (h : hostHalf s p = .next t) :
    (presented s p = none ∧ t = s) ∨
      ∃ a i, presented s p = some a ∧ decodeAccess a = .ok i ∧ exec i s = .next t := by
  simp only [hostHalf] at h
  split at h
  · rename_i hp; cases h; exact .inl ⟨hp, rfl⟩
  · rename_i a hp
    split at h
    · rename_i i hi; exact .inr ⟨a, i, hp, hi, h⟩
    · cases h

theorem hostHalf_effect {s t : State} {p : Period} (h : hostHalf s p = .next t) : HostEffect s t := by
  rcases hostHalf_cases h with ⟨-, rfl⟩ | ⟨a, i, -, -, h⟩
  · exact .none
  · exact hostEffect_of_exec h

/-- The host's half stops only on a non-conforming access. -/
theorem hostHalf_stops {s : State} {p : Period} :
    (∃ t, hostHalf s p = .next t) ∨
      ∃ a f, presented s p = some a ∧ a.flaw = some f ∧ hostHalf s p = .refused (.nonConforming f) := by
  simp only [hostHalf]
  cases hp : presented s p with
  | none => exact .inl ⟨_, rfl⟩
  | some a =>
    simp only [decodeAccess]
    cases hf : a.flaw with
    | none =>
      obtain ⟨t, ht, -⟩ := exec_effect (decodeBtc a.code a.wdata) s
      exact .inl ⟨t, by simpa using ht⟩
    | some f => exact .inr ⟨a, f, rfl, hf, rfl⟩

/-- Everything a step that goes on can be: a period without power, a reset edge, the first reset edge, or an edge in which
the host's half `t` and the state machine's updates `u`, both read from the pre-edge state, are put together. -/
theorem step_cases {s s' : State} (h : step s = .next s') :
    ((currentPeriod s).powerLoss = true ∧ s' = losePower (beginPeriod s (currentPeriod s))) ∨
    ((currentPeriod s).powerLoss = false ∧ s.world.up = true ∧ (currentPeriod s).rst = true ∧
      presentedFlaw s (currentPeriod s) = none ∧
      s' = resetEdge (beginPeriod s (currentPeriod s)) (currentPeriod s)) ∨
    ((currentPeriod s).powerLoss = false ∧ s.world.up = false ∧ (currentPeriod s).rst = true ∧
      s' = firstResetEdge (beginPeriod s (currentPeriod s))) ∨
    ((currentPeriod s).powerLoss = false ∧ s.world.up = true ∧ (currentPeriod s).rst = false ∧
      ∃ t u, hostHalf (beginPeriod s (currentPeriod s)) (currentPeriod s) = .next t ∧
        fsmStep (beginPeriod s (currentPeriod s)) (txDone s (currentPeriod s)) = .ok u ∧
        s' = { t.applyFsm u with
          world := endWorld (beginPeriod s (currentPeriod s)) (currentPeriod s) t.world }) := by
  simp only [step] at h
  split at h
  · rename_i hp; cases h; exact .inl ⟨hp, rfl⟩
  · rename_i hp
    have hp' : (currentPeriod s).powerLoss = false := by simpa using hp
    split at h
    · rename_i hu
      split at h
      · rename_i hr
        simp only [runResetEdge] at h
        split at h
        · cases h
        · rename_i hf; cases h; exact .inr (.inl ⟨hp', hu, hr, hf, rfl⟩)
      · rename_i hr
        refine .inr (.inr (.inr ⟨hp', hu, by simpa using hr, ?_⟩))
        simp only [runEdge] at h
        split at h
        · rename_i t ht
          simp only [endEdge] at h
          split at h
          · rename_i u hu'; cases h; exact ⟨t, u, ht, hu', rfl⟩
          · cases h
        · cases h
        · cases h
    · rename_i hu
      split at h
      · rename_i hr; cases h; exact .inr (.inr (.inl ⟨hp', by simpa using hu, hr, rfl⟩))
      · cases h

/-- A reset edge at which the access, if there is one, is conforming. -/
theorem step_of_reset {s : State} (hu : s.world.up = true) (hp : (currentPeriod s).powerLoss = false)
    (hr : (currentPeriod s).rst = true) (hf : presentedFlaw s (currentPeriod s) = none) :
    step s = .next (resetEdge (beginPeriod s (currentPeriod s)) (currentPeriod s)) := by
  have hf' : presentedFlaw (beginPeriod s (currentPeriod s)) (currentPeriod s) = none := hf
  simp [step, hu, hp, hr, runResetEdge, hf']

/-- A reset edge at which the access is not conforming. -/
theorem step_of_reset_flaw {s : State} {f : AccessFlaw} (hu : s.world.up = true)
    (hp : (currentPeriod s).powerLoss = false) (hr : (currentPeriod s).rst = true)
    (hf : presentedFlaw s (currentPeriod s) = some f) : step s = .refused (.nonConforming f) := by
  have hf' : presentedFlaw (beginPeriod s (currentPeriod s)) (currentPeriod s) = some f := hf
  simp [step, hu, hp, hr, runResetEdge, hf']

/-- An edge with no reset and no loss of power, from its two halves. -/
theorem step_of_halves {s t : State} {u : FsmUpdate} (hu : s.world.up = true)
    (hp : (currentPeriod s).powerLoss = false) (hr : (currentPeriod s).rst = false)
    (ht : hostHalf (beginPeriod s (currentPeriod s)) (currentPeriod s) = .next t)
    (hf : fsmStep (beginPeriod s (currentPeriod s)) (txDone s (currentPeriod s)) = .ok u) :
    step s = .next { t.applyFsm u with
      world := endWorld (beginPeriod s (currentPeriod s)) (currentPeriod s) t.world } := by
  simp [step, hu, hp, hr, runEdge, ht, endEdge, hf]

end Sys2Proof.Machine
end

