-- ==== Sys2Proof/Laws/Params.lean ====
section
/-! SUPPORT. The laws of the elaboration parameters: the ranges of the two counts, and what `minTransmitEdges` is. -/

namespace Sys2Proof

theorem Rate.num_pos (r : Rate) : 0 < r.num := Nat.succ_pos _

theorem Rate.den_pos (r : Rate) : 0 < r.den := Nat.succ_pos _

theorem Params.nLeds_range (p : Params) : 1 ≤ p.nLeds ∧ p.nLeds ≤ 65535 := by
  have := p.lastLed.isLt
  simp only [Params.nLeds]
  omega

theorem Params.tResetTicks_range (p : Params) : 1 ≤ p.tResetTicks ∧ p.tResetTicks ≤ 4294967295 := by
  have := p.lastTick.isLt
  simp only [Params.tResetTicks]
  omega

namespace Machine

/-- `minTransmitEdges` is the least number of edges `j` with `96 * N_LEDS / LANE_BITRATE <= j / F_CLK`, the fractions cleared
(R312). -/
theorem minTransmitEdges_le_iff (p : Params) (j : Nat) :
    minTransmitEdges p ≤ j ↔
      frameBitTimes p * p.fClkRate.num * p.laneRate.den ≤ j * (p.fClkRate.den * p.laneRate.num) := by
  have hden : 0 < p.fClkRate.den * p.laneRate.num := Nat.mul_pos p.fClkRate.den_pos p.laneRate.num_pos
  simp only [minTransmitEdges]
  generalize frameBitTimes p * p.fClkRate.num * p.laneRate.den = a
  generalize p.fClkRate.den * p.laneRate.num = d at hden
  rw [← Nat.lt_succ_iff, Nat.div_lt_iff_lt_mul hden, Nat.succ_mul]
  omega

end Machine

end Sys2Proof
end

