-- ==== Sys2Proof/Laws/PerInstr.lean ====
section
/-! SUPPORT. Families of statements made for each instruction as syntax, one lemma per constructor. -/

namespace Sys2Proof.Laws

/-- The encoding of a well-formed instruction matches its row of spec/opcode_table.json under the row's mask (R104). -/
def RowMatch.Statement (i : Instr) : Prop := i.wellFormed = true → (rowOf i).hits (encode i).tableWord = true

/-- The mask of `SET`'s row leaves its `INDEX` field out. -/
theorem set_word_masked (x : Index) : (0x1#4 ++ 0#12 ++ x) &&& 0xFFFF0000#32 = 0x10000000#32 := by
  show ((0x1#4 ++ 0#12) ++ x) &&& (0xFFFF#16 ++ 0#16) = (0x1000#16 ++ 0#16)
  rw [show (0x1#4 ++ 0#12 : BitVec 16) = 0x1000#16 from rfl, BitVec.and_append]
  simp


theorem RowMatch.rdCmd : RowMatch.Statement .rdCmd := by
  intro _
  simp [Row.hits, rowOf, encode, Encoded.tableWord]

theorem RowMatch.rdColor : RowMatch.Statement .rdColor := by
  intro _
  simp [Row.hits, rowOf, encode, Encoded.tableWord]

theorem RowMatch.rdStatus : RowMatch.Statement .rdStatus := by
  intro _
  simp [Row.hits, rowOf, encode, Encoded.tableWord]

theorem RowMatch.rdNleds : RowMatch.Statement .rdNleds := by
  intro _
  simp [Row.hits, rowOf, encode, Encoded.tableWord]

theorem RowMatch.rdResetTicks : RowMatch.Statement .rdResetTicks := by
  intro _
  simp [Row.hits, rowOf, encode, Encoded.tableWord]

theorem RowMatch.rdTimeout : RowMatch.Statement .rdTimeout := by
  intro _
  simp [Row.hits, rowOf, encode, Encoded.tableWord]

theorem RowMatch.rdRsvd (a : BusAddr) : RowMatch.Statement (.rdRsvd a) := by
  intro h
  simp only [Instr.wellFormed, Bool.or_eq_true, beq_iff_eq] at h
  rcases h with rfl | rfl <;> simp [Row.hits, rowOf, encode, Encoded.tableWord]

theorem RowMatch.wrCmd (w : Word) : RowMatch.Statement (.wrCmd w) := by
  intro _
  simp [Row.hits, rowOf, encode, Encoded.tableWord]

theorem RowMatch.wrColor (w : Word) : RowMatch.Statement (.wrColor w) := by
  intro _
  simp [Row.hits, rowOf, encode, Encoded.tableWord]

theorem RowMatch.wrStatus (w : Word) : RowMatch.Statement (.wrStatus w) := by
  intro _
  simp [Row.hits, rowOf, encode, Encoded.tableWord]

theorem RowMatch.wrNleds (w : Word) : RowMatch.Statement (.wrNleds w) := by
  intro _
  simp [Row.hits, rowOf, encode, Encoded.tableWord]

theorem RowMatch.wrResetTicks (w : Word) : RowMatch.Statement (.wrResetTicks w) := by
  intro _
  simp [Row.hits, rowOf, encode, Encoded.tableWord]

theorem RowMatch.wrTimeout (w : Word) : RowMatch.Statement (.wrTimeout w) := by
  intro _
  simp [Row.hits, rowOf, encode, Encoded.tableWord]

theorem RowMatch.wrRsvd (a : BusAddr) (w : Word) : RowMatch.Statement (.wrRsvd a w) := by
  intro h
  simp only [Instr.wellFormed, Bool.or_eq_true, beq_iff_eq] at h
  rcases h with rfl | rfl <;> simp [Row.hits, rowOf, encode, Encoded.tableWord]

theorem RowMatch.cmdNop : RowMatch.Statement .cmdNop := by
  intro _
  simp [Row.hits, rowOf, encode, Encoded.tableWord]

theorem RowMatch.cmdSet (index : Index) : RowMatch.Statement (.cmdSet index) := by
  intro _
  simpa [Row.hits, rowOf, encode, Encoded.tableWord] using set_word_masked index

theorem RowMatch.cmdFill : RowMatch.Statement .cmdFill := by
  intro _
  simp [Row.hits, rowOf, encode, Encoded.tableWord]

theorem RowMatch.cmdShow : RowMatch.Statement .cmdShow := by
  intro _
  simp [Row.hits, rowOf, encode, Encoded.tableWord]

theorem RowMatch.cmdRecover : RowMatch.Statement .cmdRecover := by
  intro _
  simp [Row.hits, rowOf, encode, Encoded.tableWord]

theorem RowMatch.cmdClrerr : RowMatch.Statement .cmdClrerr := by
  intro _
  simp [Row.hits, rowOf, encode, Encoded.tableWord]

theorem RowMatch.illegalOp67 (w : Word) : RowMatch.Statement (.illegalOp67 w) := fun h => h

theorem RowMatch.illegalOp8F (w : Word) : RowMatch.Statement (.illegalOp8F w) := fun h => h

end Sys2Proof.Laws
end

