-- ==== Sys2Proof/Tests/Slice0.lean ====
section
/-! SUPPORT. The model's own tests. Expected values come from spec/95_test_vectors.md and the encodings of
spec/30_encoding.md; each test names its row. The witnesses show that the hypotheses of a statement can be met together. -/

namespace Sys2Proof.Tests

open Sys2Proof Sys2Proof.Machine

/-! ### Helpers -/

/-- Parameters with `N_LEDS = lastLed + 1` and `T_RESET_TICKS = lastTick + 1`. -/
def small (lastLed : Fin 65535) (lastTick : Fin 4294967295) : Params :=
  { lastLed := lastLed, lastTick := lastTick, regPage := 0, bufBase := 0x20000000#32, laneDr := 0x40013000#32,
    fClkRate := ⟨0, 0⟩, laneRate := ⟨0, 0⟩, laneMode := 0 }

/-- The reset state with small parameters. -/
def start (lastLed : Fin 65535) (lastTick : Fin 4294967295) : State := State.resetWith (small lastLed lastTick)

/-- `s` with a host program and the inputs of the coming periods. -/
def placed (s : State) (prog : List HostLine) (env : List Period) : State :=
  { s with world := { s.world with prog := prog, env := env } }

/-- A period with `tx_done` low, and one with it high. -/
def calm : Period := { tx := .low }

def done : Period := { tx := .high }

/-- The next state, if there is one. -/
def nextOf (o : Host.Outcome State Fault Refusal) : Option State :=
  match o with
  | .next s => some s
  | .fault _ => none
  | .refused _ => none

/-- The state after one period in which the host writes `w` to `CMD`. -/
def afterCommand (s : State) (w : Word) : Option State := nextOf (step (placed s [wr .cmd w] [calm]))

/-- `STATUS` after that period. -/
def statusAfter (s : State) (w : Word) : Option Word := (afterCommand s w).map statusWord

/-- What the host reads when it reads `r` of `s`. -/
def readBack (s : State) (r : HostReg) : Option Word :=
  (nextOf (step (placed s [.rd r "x"] [calm]))).bind (fun t => t.world.reads.head?)

/-- What the host reads from `r` in the period after it has written `w` to it. -/
def writeThenRead (s : State) (r : HostReg) (w : Word) : Option Word :=
  (nextOf (step (placed s [wr r w] [calm]))).bind (fun t => readBack t r)

/-- The state the vectors of part 2.3 start from: `N_LEDS = 4`, `COLOR = 0x00010203`. -/
def four : State := { start 3 1 with color := 0x010203#24 }

/-- The reset state with `N_LEDS = 8` and `T_RESET_TICKS = 4000` of part 2.2. -/
def eight : State := start 7 3999

/-- A state in the middle of `FILLING`, `N_LEDS = 2`: LED 0 (red) is encoded, LED 1 (blue) is not. -/
def halfFilled : State :=
  { start 1 1 with fsm := .filling, idx := 1#16, timeout := 3#32, table := [0xFF0000#24, 0x0000FF#24],
                   buf := Memory.writeAll [] (bytesAt 0 (encLed 0xFF0000#24)) }

/-- `TRANSMITTING`, `N_LEDS = 1`, with one red LED. -/
def sending : State :=
  { start 0 1 with fsm := .transmitting, toCnt := 1#32, table := [0xFF0000#24],
                   buf := Memory.writeAll [] (bytesAt 0 (encLed 0xFF0000#24)) }

/-- `FAULT`, with its flag. -/
def faulted : State := { start 0 1 with fsm := .fault, err := { ErrFlags.clear with tmo := true } }

/-- The lane is running a transfer. -/
def laneOn (s : State) : State := { s with world := { s.world with laneBusy := true } }

theorem plainEdge_of (s : State) (hu : s.world.up = true) (hp : (currentPeriod s).powerLoss = false)
    (hr : (currentPeriod s).rst = false)
    (hc : (presented s (currentPeriod s)).all (fun a => a.flaw == none) = true) : PlainEdge s :=
  ⟨hu, hp, hr, fun a ha => by simpa [ha] using hc⟩

theorem undisturbed_of (s : State) (hu : s.world.up = true)
    (hq : s.world.env.all (fun p => !p.rst && !p.powerLoss) = true)
    (hc : s.world.prog.all HostLine.conforming = true) : Undisturbed s :=
  ⟨hu, fun p hp => by simpa using List.all_eq_true.1 hq p hp, fun l hl => List.all_eq_true.1 hc l hl⟩

theorem next_of (s : State) (o : Host.Outcome State Fault Refusal) (h : nextOf o = some s) : o = .next s := by
  cases o <;> simp_all [nextOf]

/-! ### Well-formedness: one ill-formed term for each check -/

theorem test_illformed_rdRsvd : (Instr.rdRsvd 5#3).wellFormed = false := by decide

theorem test_illformed_wrRsvd : (Instr.wrRsvd 0#3 1#32).wellFormed = false := by decide

theorem test_illformed_op67 : (Instr.illegalOp67 0x5FFFFFFF#32).wellFormed = false := by decide

theorem test_illformed_op67_high : (Instr.illegalOp67 0x80000000#32).wellFormed = false := by decide

theorem test_illformed_op8F : (Instr.illegalOp8F 0x7FFFFFFF#32).wellFormed = false := by decide

/-! ### Decoding: the bits of R103 and R104 written out -/

theorem test_decode_rdCmd : decode (.btc 0b0000#4 0#32) = .ok .rdCmd := rfl

theorem test_decode_rdColor : decode (.btc 0b0001#4 0#32) = .ok .rdColor := rfl

theorem test_decode_rdStatus : decode (.btc 0b0010#4 0#32) = .ok .rdStatus := rfl

theorem test_decode_rdNleds : decode (.btc 0b0011#4 0#32) = .ok .rdNleds := rfl

theorem test_decode_rdResetTicks : decode (.btc 0b0100#4 0#32) = .ok .rdResetTicks := rfl

theorem test_decode_rdTimeout : decode (.btc 0b0101#4 0#32) = .ok .rdTimeout := rfl

theorem test_decode_rdRsvd : decode (.btc 0b0110#4 0#32) = .ok (.rdRsvd 6#3)
    ∧ decode (.btc 0b0111#4 0#32) = .ok (.rdRsvd 7#3) := ⟨rfl, rfl⟩

theorem test_decode_wrCmd : decode (.btc 0b1000#4 0x60000000#32) = .ok (.wrCmd 0x60000000#32) := rfl

theorem test_decode_wrColor : decode (.btc 0b1001#4 0x00FF0000#32) = .ok (.wrColor 0x00FF0000#32) := rfl

theorem test_decode_wrStatus : decode (.btc 0b1010#4 1#32) = .ok (.wrStatus 1#32) := rfl

theorem test_decode_wrNleds : decode (.btc 0b1011#4 3#32) = .ok (.wrNleds 3#32) := rfl

theorem test_decode_wrResetTicks : decode (.btc 0b1100#4 1#32) = .ok (.wrResetTicks 1#32) := rfl

theorem test_decode_wrTimeout : decode (.btc 0b1101#4 3#32) = .ok (.wrTimeout 3#32) := rfl

theorem test_decode_wrRsvd : decode (.btc 0b1110#4 1#32) = .ok (.wrRsvd 6#3 1#32)
    ∧ decode (.btc 0b1111#4 1#32) = .ok (.wrRsvd 7#3 1#32) := ⟨rfl, rfl⟩

/-- `OP = 0000`, 28 zeros. -/
theorem test_decode_nop : decode (.cmdw 0b00000000000000000000000000000000#32) = .ok .cmdNop := rfl

/-- `OP = 0001`, 12 zeros, `INDEX = 1000000000000011`. -/
theorem test_decode_set : decode (.cmdw 0b00010000000000001000000000000011#32) = .ok (.cmdSet 0x8003#16) := rfl

theorem test_decode_fill : decode (.cmdw 0b00100000000000000000000000000000#32) = .ok .cmdFill := rfl

theorem test_decode_show : decode (.cmdw 0b00110000000000000000000000000000#32) = .ok .cmdShow := rfl

theorem test_decode_recover : decode (.cmdw 0b01000000000000000000000000000000#32) = .ok .cmdRecover := rfl

theorem test_decode_clrerr : decode (.cmdw 0b01010000000000000000000000000000#32) = .ok .cmdClrerr := rfl

theorem test_decode_op67 : decode (.cmdw 0b01111111111111111111111111111111#32) = .ok (.illegalOp67 0x7FFFFFFF#32) := rfl

theorem test_decode_op8F : decode (.cmdw 0b10000000000000000000000000000000#32) = .ok (.illegalOp8F 0x80000000#32) := rfl

/-- The words of part 2.3 that no row takes are rejected by name. -/
theorem test_decode_rejects :
    ∀ w ∈ [0x00000001#32, 0x10010000#32, 0x1001FFFF#32, 0x18000000#32, 0x20000001#32, 0x30000001#32, 0x38000000#32,
      0x50000010#32], decode (.cmdw w) = .error (.reservedField w) ∧ legalCommand w = false := by
  simp only [List.mem_cons, List.not_mem_nil, or_false]
  rintro w (rfl | rfl | rfl | rfl | rfl | rfl | rfl | rfl) <;> exact ⟨rfl, rfl⟩

/-- A row's word in the table's own numbering, a bus transaction code and a command word. -/
theorem test_decodeTableWord : decodeTableWord 8 0xD = some (.wrTimeout 0#32)
    ∧ decodeTableWord 32 0x10000002 = some (.cmdSet 2#16) ∧ decodeTableWord 32 0x30000001 = none := by decide

/-- Accesses that are not conforming (R75). -/
theorem test_decodeAccess_rejects :
    decodeAccess { readOf .cmd with width := 8 } = .error .width
    ∧ decodeAccess { readOf .cmd with beats := 2 } = .error .burst
    ∧ decodeAccess { readOf .cmd with offset := 0x20 } = .error .outsideWindow
    ∧ decodeAccess { readOf .cmd with offset := 0x1E } = .error .misaligned
    ∧ decodeAccess { readOf .cmd with offset := 0x1C } = .ok (.rdRsvd 7#3) := ⟨rfl, rfl, rfl, rfl, rfl⟩

/-- The first instruction after reset is the word placed, whatever the parameters are. -/
theorem test_withFetchWord_show :
    ((nextOf (step (State.reset.withFetchWord 32 0x30000000))).map (·.fsm)) = some .preDelay := by decide

theorem test_withFetchWord_illegal :
    ((nextOf (step (State.reset.withFetchWord 32 0xF0000000))).map (·.err.ill)) = some true := by decide

theorem test_withFetchWord_read :
    ((nextOf (step (State.reset.withFetchWord 8 2))).map (·.world.reads)) = some [0#32] := by decide

/-! ### The encoder (95_test_vectors.md E2 to E6) -/

theorem test_encByte_A5 : encByte 0xA5#8 = [0xC8#8, 0xC8#8, 0x8C#8, 0x8C#8] := by decide

theorem test_encByte_34 : encByte 0x34#8 = [0x88#8, 0xCC#8, 0x8C#8, 0x88#8] := by decide

theorem test_encByte_80 : encByte 0x80#8 = [0xC8#8, 0x88#8, 0x88#8, 0x88#8] := by decide

theorem test_encLed_order : encLed (rgb 0x12#8 0x34#8 0x56#8) =
    [0x88#8, 0xCC#8, 0x8C#8, 0x88#8, 0x88#8, 0x8C#8, 0x88#8, 0xC8#8, 0x8C#8, 0x8C#8, 0x8C#8, 0xC8#8] := by decide

theorem test_encFrame_two : (encFrame [0xFF0000#24, 0x0000FF#24])[16]? = some 0x88#8
    ∧ (encFrame [0xFF0000#24, 0x0000FF#24])[20]? = some 0xCC#8
    ∧ (encFrame [0xFF0000#24, 0x0000FF#24]).length = 24 := by decide

theorem test_decoder : decNibble 0x0#4 = none ∧ decNibble 0xE#4 = none
    ∧ decByte 0x88#8 0x8C#8 0x8C#8 0x88#8 = some 0x14#8
    ∧ decFrame (encLed (rgb 10#8 20#8 30#8)) = some [rgb 10#8 20#8 30#8] := by decide

/-- E6: `C8 88` is sent as `1100 1000 1000 1000`. -/
theorem test_wire : wire [0xC8#8, 0x88#8] =
    [true, true, false, false, true, false, false, false, true, false, false, false, true, false, false, false] := by
  decide

/-! ### Register access (part 2.2) -/

theorem test_rdCmd : readBack eight .cmd = some 0#32 := by decide

theorem test_rdNleds : readBack eight .nleds = some 0x8#32 := by decide

theorem test_rdResetTicks : readBack eight .resetTicks = some 0xFA0#32 := by decide

theorem test_rdRsvd : readBack eight .rsvd1C = some 0#32 := by decide

theorem test_wrColor : writeThenRead eight .color 0xFF123456#32 = some 0x00123456#32 := by decide

theorem test_wrTimeout : writeThenRead eight .timeout 0xFFFFFFFF#32 = some 0xFFFFFFFF#32 := by decide

theorem test_wrStatus : writeThenRead { eight with err := { ErrFlags.clear with rng := true } } .status 0xFFFFFFFF#32
    = some 0x200#32 := by decide

theorem test_wrNleds : writeThenRead eight .nleds 3#32 = some 8#32 := by decide

theorem test_wrResetTicks : writeThenRead eight .resetTicks 1#32 = some 0xFA0#32 := by decide

theorem test_wrRsvd : writeThenRead eight .rsvd1C 1#32 = some 0#32 := by decide

theorem test_wrCmd : writeThenRead eight .cmd 0x30000000#32 = some 0#32 := by decide

/-- `STATUS` in each state (part 2.2). -/
theorem test_rdStatus :
    [FrameState.idle, .preDelay, .filling, .transmitting, .postDelay, .fault].map
      (fun f => statusWord { eight with fsm := f }) = [0x000#32, 0x009#32, 0x00A#32, 0x00B#32, 0x00C#32, 0x007#32] := by
  decide

/-! ### Commands (part 2.3) -/

theorem test_set_last : (afterCommand four 0x10000003#32).map (·.table)
    = some [0#24, 0#24, 0#24, 0x010203#24] := by decide

theorem test_set_range : statusAfter four 0x10000004#32 = some 0x200#32
    ∧ (afterCommand four 0x1000FFFF#32).map (·.table) = some four.table := by decide

theorem test_fill : (afterCommand four 0x20000000#32).map (·.table)
    = some [0x010203#24, 0x010203#24, 0x010203#24, 0x010203#24] := by decide

theorem test_show : statusAfter four 0x30000000#32 = some 0x009#32
    ∧ (afterCommand four 0x30000000#32).map (·.dly) = some 1#32 := by decide

theorem test_nop : statusAfter four 0x00000000#32 = some 0x000#32 := by decide

theorem test_recover_outside_fault : statusAfter four 0x40000000#32 = some 0x000#32 := by decide

/-- Every illegal word of part 2.3 sets `err_ill` only. -/
theorem test_illegal_words :
    [0x00000001#32, 0x10010000#32, 0x1001FFFF#32, 0x18000000#32, 0x20000001#32, 0x30000001#32, 0x38000000#32,
      0x50000010#32, 0x60000000#32, 0x7FFFFFFF#32, 0x80000000#32, 0xF0000000#32, 0xFFFFFFFF#32].all
      (fun w => statusAfter four w == some 0x100#32) = true := by decide

/-- F8, edges e6 and e7: `SHOW`, then `RECOVER`, in `FAULT`. -/
theorem test_show_in_fault : statusAfter faulted 0x30000000#32 = some 0xC07#32 := by decide

theorem test_recover_in_fault : statusAfter faulted 0x40000000#32 = some 0x80C#32
    ∧ (afterCommand faulted 0x40000000#32).map (·.dly) = some 1#32 := by decide

theorem test_clrerr_in_fault : statusAfter faulted 0x50000000#32 = some 0x007#32 := by decide

/-! ### The frame state machine (part 2.4), one edge each -/

/-- F1, e2: the last edge of `PRE_DELAY`. -/
theorem test_preDelay_ends :
    (nextOf (step (placed { start 0 1 with fsm := .preDelay, idx := 5#16 } [] [calm]))).map (fun t => (t.fsm, t.idx))
      = some (.filling, 0#16) := by decide

/-- F1, e3, for the second of two LEDs: `buf` is complete, byte 20 is blue's. -/
theorem test_filling_last :
    (nextOf (step (placed halfFilled [] [calm]))).map (fun t => (t.fsm, t.toCnt, t.buf.read? 16, t.buf.read? 20, t.buf.read? 4))
      = some (.transmitting, 3#32, some 0x88#8, some 0xCC#8, some 0xCC#8) := by decide

/-- F1, e4: the lane samples `tx_start` and takes the frame of X3. -/
theorem test_tx_start :
    (nextOf (step (placed { sending with toCnt := 0#32 } [] [calm]))).map (fun t => (t.fsm, t.armed, t.world.laneBusy, t.world.frames))
      = some (.transmitting, true, true, [[0x88#8, 0x88#8, 0x88#8, 0x88#8, 0xCC#8, 0xCC#8, 0xCC#8, 0xCC#8,
          0x88#8, 0x88#8, 0x88#8, 0x88#8]]) := by decide

/-- F1, e5: completion is honoured. -/
theorem test_completion :
    (nextOf (step (placed (laneOn { sending with toCnt := 0#32, armed := true }) [] [done]))).map
      (fun t => (t.fsm, t.dly, t.world.laneBusy)) = some (.postDelay, 1#32, false) := by decide

/-- F2: with `TIMEOUT = 1` a `tx_done` at the first edge is not honoured, and the block faults. -/
theorem test_timeout_one :
    (nextOf (step (placed sending [] [done]))).map (fun t => (statusWord t, t.world.marks.laneBroken))
      = some (0x807#32, true) := by decide

/-- F6, e3: a timeout raised at the edge of a `CLRERR` stays. -/
theorem test_clrerr_at_timeout : statusAfter { sending with err := { ErrFlags.clear with ill := true } } 0x50000000#32
    = some 0x807#32 := by decide

/-- F7, e3 to e4: a `FILL` at the edge that encodes LED 1 leaves LED 1's bytes as the entry was. -/
theorem test_fill_while_filling :
    (afterCommand { halfFilled with color := 0x00FF00#24 } 0x20000000#32).map (fun t => (t.table, t.buf.read? 12, t.buf.read? 20))
      = some ([0x00FF00#24, 0x00FF00#24], some 0x88#8, some 0xCC#8) := by decide

/-- F9, e4: `rst` with a `SHOW` at the same edge. -/
theorem test_reset_edge :
    (nextOf (step (placed { sending with armed := true } [wr .cmd 0x30000000#32] [{ calm with rst := true }]))).map
      (fun t => (statusWord t, t.table, t.buf.read? 4)) = some (0#32, [0#24], some 0xCC#8) := by decide

/-- U5, U14: without a reset edge there is no run. -/
theorem test_no_reset_edge :
    (match step (placed { start 0 1 with world := { World.initial with up := false } } [] [calm]) with
      | .refused .noResetEdge => true
      | .refused _ => false
      | .next _ => false
      | .fault _ => false) = true := by decide

/-- U7: an 8-bit access is refused. -/
theorem test_nonconforming :
    (match step (placed (start 0 1) [.bus { readOf .cmd with width := 8 }] [calm]) with
      | .refused (.nonConforming .width) => true
      | .refused _ => false
      | .next _ => false
      | .fault _ => false) = true := by decide

/-- U7 at a reset edge: "A model refuses a program that makes one". -/
theorem test_nonconforming_at_reset :
    (match step (placed (start 0 1) [.bus { writeOf .cmd 0#32 with beats := 2 }] [{ calm with rst := true }]) with
      | .refused (.nonConforming .burst) => true
      | .refused _ => false
      | .next _ => false
      | .fault _ => false) = true := by decide

/-- U14: after a loss of power the next period is no run without a reset edge. -/
theorem test_power_loss :
    (match nextOf (step (placed (start 0 1) [] [{ calm with powerLoss := true }, calm])) with
      | none => false
      | some s =>
        match step s with
        | .refused .noResetEdge => true
        | .refused _ => false
        | .next _ => false
        | .fault _ => false) = true := by decide

/-- R312 by hand: `96 * (5/2) / (3/2) = 160`, and `96 * (1/7) / 1 = 13.7..`, so 14. -/
theorem test_minTransmitEdges :
    minTransmitEdges { small 0 0 with fClkRate := ⟨4, 1⟩, laneRate := ⟨2, 1⟩ } = 160
    ∧ minTransmitEdges { small 0 0 with fClkRate := ⟨0, 6⟩ } = 14 := by decide

/-- P1's `SETLED 0, 255, 0, 0` expands to accesses 1 and 2. -/
theorem test_setled : (Pseudo.setLed 0#16 255#8 0#8 0#8).expand = [wr .color 0x00FF0000#32, wr .cmd 0x10000000#32] := by
  decide

/-! ### Witnesses: the hypotheses of the statements met together -/

theorem witness_DecodeEncodeRoundTrip :
    [Instr.rdRsvd 6#3, .rdRsvd 7#3, .wrRsvd 6#3 0#32, .wrRsvd 7#3 0xFFFFFFFF#32, .cmdSet 0#16, .cmdSet 0xFFFF#16,
      .illegalOp67 0x60000000#32, .illegalOp67 0x7FFFFFFF#32, .illegalOp8F 0x80000000#32, .illegalOp8F 0xFFFFFFFF#32].all
      Instr.wellFormed = true := by decide

theorem witness_DecodedWordsReencode : (0b1111#4).getLsbD 3 = true
    ∧ decode (.cmdw 0x1000FFFF#32) = .ok (.cmdSet 0xFFFF#16) := ⟨rfl, rfl⟩

theorem witness_CommandDispatch : decode (.cmdw 0x10000003#32) = .ok (.cmdSet 3#16)
    ∧ decode (.cmdw 0x50000010#32) = .error (.reservedField 0x50000010#32) ∧ legalCommand 0x50000010#32 = false
    ∧ decode (.cmdw 0x60000000#32) = .ok (.illegalOp67 0x60000000#32) ∧ legalCommand 0x60000000#32 = false := ⟨rfl, rfl, rfl, rfl, rfl⟩

theorem witness_StatusFields :
    (start 0 1).fsm = .idle ∧ ({ start 0 1 with fsm := .preDelay } : State).fsm = .preDelay
    ∧ halfFilled.fsm = .filling ∧ sending.fsm = .transmitting
    ∧ ({ start 0 1 with fsm := .postDelay } : State).fsm = .postDelay
    ∧ faulted.fsm = .fault ∧ faulted.err.tmo = true := by decide

theorem witness_SetEffect : four.table.length = four.params.nLeds ∧ (0#16).toNat < four.params.nLeds
    ∧ (3#16).toNat < four.params.nLeds ∧ four.params.nLeds ≤ (4#16).toNat ∧ four.params.nLeds ≤ (0xFFFF#16).toNat := by decide

theorem witness_ShowEffect : four.fsm = .idle ∧ faulted.fsm ≠ .idle ∧ sending.fsm ≠ .idle := by decide

theorem witness_RecoverEffect : faulted.fsm = .fault ∧ sending.fsm ≠ .fault := by decide

theorem witness_ClrErrEffect :
    PlainEdge (placed sending [wr .cmd 0x50000000#32] [calm])
    ∧ WritesCommand (placed sending [wr .cmd 0x50000000#32] [calm]) 0x50000000#32
    ∧ sending.fsm = .transmitting ∧ (sending.armed && txDone (placed sending [wr .cmd 0x50000000#32] [calm]) calm) = false
    ∧ sending.toCnt = 1#32 := by
  exact ⟨plainEdge_of _ rfl rfl rfl (by decide), rfl, rfl, rfl, rfl⟩

/-- Each clause of `OneErrorPerCommand` at its boundary, all four from a state with no flag set. -/
theorem witness_OneErrorPerCommand :
    four.err = ErrFlags.clear ∧ sending.err = ErrFlags.clear
    ∧ legalCommand 0x1001FFFF#32 = false
    ∧ (legalCommand 0x10000004#32 = true ∧ (0x10000004#32).extractLsb' 28 4 = 1#4
        ∧ four.params.nLeds ≤ ((0x10000004#32).extractLsb' 0 16).toNat)
    ∧ (legalCommand 0x30000000#32 = true ∧ (0x30000000#32).extractLsb' 28 4 = 3#4 ∧ sending.fsm ≠ .idle)
    ∧ (legalCommand 0x10000003#32 = true ∧ ((0x10000003#32).extractLsb' 0 16).toNat < four.params.nLeds)
    ∧ (nextOf (exec (.wrCmd 0x10000004#32) four)).isSome = true
    ∧ (nextOf (exec (.wrCmd 0x30000000#32) sending)).isSome = true := by decide

theorem witness_HostAccessFrame : (nextOf (exec .cmdShow four)).isSome = true
    ∧ (nextOf (exec .cmdRecover faulted)).isSome = true ∧ (nextOf (exec .cmdClrerr faulted)).isSome = true := by decide

theorem witness_StepRunsDecodedAccess :
    (placed four [wr .color 5#32] [calm]).world.up = true
    ∧ (currentPeriod (placed four [wr .color 5#32] [calm])).powerLoss = false
    ∧ (currentPeriod (placed four [wr .color 5#32] [calm])).rst = false
    ∧ presented (placed four [wr .color 5#32] [calm]) calm = some (writeOf .color 5#32)
    ∧ decodeAccess (writeOf .color 5#32) = .ok (.wrColor 5#32) := ⟨rfl, rfl, rfl, rfl, rfl⟩

/-- Each kind of line at the head of a program; a `POLL` in a period the host idles in, and in one it does not. -/
theorem witness_HostLinesRun :
    (placed four [wr .cmd 0#32] []).world.prog = .bus (writeOf .cmd 0#32) :: []
    ∧ (placed four [.rd .status "st"] []).world.prog = .rd .status "st" :: []
    ∧ (placed four [.poll .status 8#32 0#32] []).world.prog = .poll .status 8#32 0#32 :: []
    ∧ pollIdles (placed four [.poll .status 8#32 0#32] []) { pollIdle := .high } = true
    ∧ pollIdles (placed four [.poll .status 8#32 0#32] []) { pollIdle := .low } = false
    ∧ (placed four [.idleFor 1] []).world.prog = .idleFor (0 + 1) :: []
    ∧ (placed four [.idleFor 2] []).world.prog = .idleFor (1 + 1) :: []
    ∧ (placed four [.idleFor 0] []).world.prog = .idleFor 0 :: []
    ∧ (placed four [] []).world.prog = [] := by decide

theorem halfFilled_inv (prog : List HostLine) (env : List Period) : (placed halfFilled prog env).Inv := by
  constructor <;> (try simp only [placed]) <;> decide

theorem sending_inv (prog : List HostLine) (env : List Period) : (placed sending prog env).Inv := by
  constructor <;> (try simp only [placed]) <;> decide

theorem four_inv (prog : List HostLine) (env : List Period) : (placed four prog env).Inv := by
  constructor <;> (try simp only [placed]) <;> decide

/-- A `CLRERR` at the edge of a timeout (F6), an illegal word, an index one past the end, and a `SHOW` outside `IDLE`. -/
theorem witness_FlagUpdateRule :
    (PlainEdge (placed sending [wr .cmd 0x50000000#32] [calm]) ∧ (placed sending [wr .cmd 0x50000000#32] [calm]).Inv
      ∧ WritesCommand (placed sending [wr .cmd 0x50000000#32] [calm]) 0x50000000#32
      ∧ sending.fsm = .transmitting ∧ sending.toCnt = 1#32
      ∧ txDone (placed sending [wr .cmd 0x50000000#32] [calm]) calm = false)
    ∧ (PlainEdge (placed four [wr .cmd 0x10000004#32] [calm]) ∧ (placed four [wr .cmd 0x10000004#32] [calm]).Inv
      ∧ WritesCommand (placed four [wr .cmd 0x10000004#32] [calm]) (0x1000#16 ++ 4#16)
      ∧ four.params.nLeds ≤ (4#16).toNat)
    ∧ (PlainEdge (placed four [wr .cmd 0x60000000#32] [calm])
      ∧ WritesCommand (placed four [wr .cmd 0x60000000#32] [calm]) 0x60000000#32 ∧ legalCommand 0x60000000#32 = false)
    ∧ (PlainEdge (placed halfFilled [wr .cmd 0x30000000#32] [calm]) ∧ (placed halfFilled [wr .cmd 0x30000000#32] [calm]).Inv
      ∧ WritesCommand (placed halfFilled [wr .cmd 0x30000000#32] [calm]) 0x30000000#32 ∧ halfFilled.fsm ≠ .idle) := by
  refine ⟨⟨plainEdge_of _ rfl rfl rfl (by decide), sending_inv _ _, rfl, rfl, rfl, rfl⟩,
    ⟨plainEdge_of _ rfl rfl rfl (by decide), four_inv _ _, rfl, by decide⟩,
    ⟨plainEdge_of _ rfl rfl rfl (by decide), rfl, by decide⟩,
    ⟨plainEdge_of _ rfl rfl rfl (by decide), halfFilled_inv _ _, rfl, by decide⟩⟩

theorem witness_PreDelayEdge :
    (PlainEdge { start 0 1 with fsm := .preDelay } ∧ ({ start 0 1 with fsm := .preDelay } : State).dly = 0#32)
    ∧ PlainEdge { start 0 1 with fsm := .preDelay, dly := 1#32 } := by
  exact ⟨⟨plainEdge_of _ rfl rfl rfl (by decide), rfl⟩, plainEdge_of _ rfl rfl rfl (by decide)⟩

/-- The last LED (`idx = 1` of two), with a write beside it, and an earlier one. -/
theorem witness_FillingEdge :
    (PlainEdge (placed halfFilled [wr .color 5#32] [calm]) ∧ (placed halfFilled [wr .color 5#32] [calm]).Inv
      ∧ halfFilled.fsm = .filling ∧ halfFilled.idx.toNat = halfFilled.params.nLeds - 1)
    ∧ (PlainEdge { four with fsm := .filling } ∧ ({ four with fsm := .filling } : State).Inv
      ∧ four.idx.toNat ≠ four.params.nLeds - 1) := by
  refine ⟨⟨plainEdge_of _ rfl rfl rfl (by decide), halfFilled_inv _ _, rfl, rfl⟩, plainEdge_of _ rfl rfl rfl (by decide), ?_,
    by decide⟩
  constructor <;> decide

/-- Each of the three cases: completion, the bound at `to_cnt = 1`, and waiting at `to_cnt = 0` and `2`. -/
theorem witness_TransmittingEdge :
    (PlainEdge (placed (laneOn { sending with armed := true }) [] [done])
      ∧ txDone (placed (laneOn { sending with armed := true }) [] [done]) done = true)
    ∧ (PlainEdge (placed sending [] [calm]) ∧ txDone (placed sending [] [calm]) calm = false ∧ sending.toCnt = 1#32)
    ∧ PlainEdge (placed { sending with toCnt := 0#32 } [] [calm])
    ∧ PlainEdge (placed { sending with toCnt := 2#32 } [] [calm]) ∧ sending.fsm = .transmitting := by
  exact ⟨⟨plainEdge_of _ rfl rfl rfl (by decide), rfl⟩, ⟨plainEdge_of _ rfl rfl rfl (by decide), rfl, rfl⟩,
    plainEdge_of _ rfl rfl rfl (by decide), plainEdge_of _ rfl rfl rfl (by decide), rfl⟩

theorem witness_PostDelayEdge :
    PlainEdge { start 0 1 with fsm := .postDelay } ∧ PlainEdge { start 0 1 with fsm := .postDelay, dly := 1#32 } := by
  exact ⟨plainEdge_of _ rfl rfl rfl (by decide), plainEdge_of _ rfl rfl rfl (by decide)⟩

theorem witness_IdleAndFaultHold :
    (PlainEdge (placed four [] [done]) ∧ four.fsm = .idle ∧ presented (placed four [] [done]) done = none)
    ∧ (PlainEdge (placed faulted [] [done]) ∧ faulted.fsm = .fault ∧ presented (placed faulted [] [done]) done = none) := by
  exact ⟨⟨plainEdge_of _ rfl rfl rfl (by decide), rfl, rfl⟩, plainEdge_of _ rfl rfl rfl (by decide), rfl, rfl⟩

theorem witness_TxDoneIgnoredUnlessArmed :
    sending.fsm = .transmitting ∧ sending.armed = false ∧ (placed sending [] [calm]).world.env = calm :: []
    ∧ (nextOf (step (placed sending [] [calm]))).isSome = true := by
  exact ⟨rfl, rfl, rfl, by decide⟩

/-- Nothing presented while an LED is encoded, and a `FILL` presented then. -/
theorem witness_FsmLeavesHostState :
    (PlainEdge (placed halfFilled [] [calm]) ∧ (placed halfFilled [] [calm]).Inv
      ∧ presented (placed halfFilled [] [calm]) calm = none)
    ∧ (PlainEdge (placed halfFilled [wr .cmd 0x20000000#32] [calm]) ∧ (placed halfFilled [wr .cmd 0x20000000#32] [calm]).Inv
      ∧ presented (placed halfFilled [wr .cmd 0x20000000#32] [calm]) calm = some (writeOf .cmd 0x20000000#32)
      ∧ decodeAccess (writeOf .cmd 0x20000000#32) = .ok (.wrCmd 0x20000000#32)
      ∧ (nextOf (exec (.wrCmd 0x20000000#32) (placed halfFilled [wr .cmd 0x20000000#32] [calm]))).isSome = true) := by
  exact ⟨⟨plainEdge_of _ rfl rfl rfl (by decide), halfFilled_inv _ _, rfl⟩, plainEdge_of _ rfl rfl rfl (by decide),
    halfFilled_inv _ _, rfl, rfl, by decide⟩

theorem witness_TimeoutEntryKeepsRest :
    PlainEdge (placed sending [] [calm]) ∧ sending.fsm = .transmitting
    ∧ (sending.armed && txDone (placed sending [] [calm]) calm) = false ∧ sending.toCnt = 1#32
    ∧ presented (placed sending [] [calm]) calm = none := by
  exact ⟨plainEdge_of _ rfl rfl rfl (by decide), rfl, rfl, rfl, rfl⟩

/-- A step that changes `state`, and a reset edge. -/
theorem witness_TransitionTable :
    (placed four [wr .cmd 0x30000000#32] [calm]).world.up = true
    ∧ (currentPeriod (placed four [wr .cmd 0x30000000#32] [calm])).powerLoss = false
    ∧ ((afterCommand four 0x30000000#32).map (·.fsm)) = some .preDelay ∧ four.fsm = .idle
    ∧ (currentPeriod (placed sending [] [{ calm with rst := true }])).rst = true
    ∧ (nextOf (step (placed sending [] [{ calm with rst := true }]))).isSome = true := by decide

theorem witness_BufferWrittenOnlyInFilling :
    (nextOf (step (placed sending [] [calm]))).isSome = true ∧ sending.fsm ≠ .filling
    ∧ (nextOf (step (placed halfFilled [] [{ calm with rst := true }]))).isSome = true := by decide

/-- A step into the one period with `tx_start = 1`. -/
theorem witness_TxStartOnlyAfterFilling :
    (placed halfFilled [] [calm]).world.up = true ∧ (currentPeriod (placed halfFilled [] [calm])).powerLoss = false
    ∧ (nextOf (step (placed halfFilled [] [calm]))).map (·.txStart) = some true := by decide

theorem witness_DeliveredFrameIsBuffer :
    (placed sending [] [calm]).Inv ∧ (placed sending [] [calm]).txStart = true
    ∧ (nextOf (step (placed sending [] [calm]))).isSome = true
    ∧ (placed four [] [calm]).Inv ∧ (placed four [] [calm]).txStart = false
    ∧ (nextOf (step (placed four [] [calm]))).isSome = true := by
  exact ⟨sending_inv _ _, by decide, by decide, four_inv _ _, by decide, by decide⟩

/-- The last byte of the buffer, one past it, and one before it. -/
theorem witness_LaneReadsBuffer :
    11 < sending.params.bufLen ∧ sending.buf.read? 11 = some 0x88#8 ∧ sending.params.bufLen ≤ 12
    ∧ 0x1FFFFFFF < sending.params.bufBase.toNat := by decide

theorem witness_ResetEdgeState :
    (placed sending [wr .cmd 0x30000000#32] [{ done with rst := true }]).world.up = true
    ∧ (currentPeriod (placed sending [wr .cmd 0x30000000#32] [{ done with rst := true }])).powerLoss = false
    ∧ (currentPeriod (placed sending [wr .cmd 0x30000000#32] [{ done with rst := true }])).rst = true
    ∧ ∀ a, presented (placed sending [wr .cmd 0x30000000#32] [{ done with rst := true }]) { done with rst := true } = some a →
        a.flaw = none := by
  refine ⟨rfl, rfl, rfl, fun a h => ?_⟩
  cases h
  rfl

/-- Before the first reset edge with `rst` low and with it high, and a period without power. -/
theorem witness_RefusedBeforeReset :
    ({ start 0 1 with world := { World.initial with up := false, env := [calm] } } : State).world.up = false
    ∧ (currentPeriod { start 0 1 with world := { World.initial with up := false, env := [calm] } }).powerLoss = false
    ∧ (currentPeriod { start 0 1 with world := { World.initial with up := false, env := [{ calm with rst := true }] } }).rst
        = true
    ∧ (currentPeriod (placed sending [] [{ calm with powerLoss := true }])).powerLoss = true := by decide

/-- States of the invariant whose step is refused: for the access, with `rst` low and with it high, and for the missing reset
edge. -/
theorem witness_StopsOnlyAsSaid :
    (placed sending [.bus { readOf .cmd with width := 8 }] [calm]).Inv
    ∧ (placed sending [.bus { readOf .cmd with width := 8 }] [{ calm with rst := true }]).Inv
    ∧ sending.world.up = true ∧ calm.powerLoss = false
    ∧ presented (placed sending [.bus { readOf .cmd with width := 8 }] [calm]) calm = some { readOf .cmd with width := 8 }
    ∧ ({ readOf .cmd with width := 8 } : BusAccess).flaw = some .width
    ∧ step (placed sending [.bus { readOf .cmd with width := 8 }] [calm]) = .refused (.nonConforming .width)
    ∧ step (placed sending [.bus { readOf .cmd with width := 8 }] [{ calm with rst := true }])
        = .refused (.nonConforming .width)
    ∧ ({ start 0 1 with world := { World.initial with up := false, env := [calm] } } : State).Inv
    ∧ step { start 0 1 with world := { World.initial with up := false, env := [calm] } } = .refused .noResetEdge := by
  refine ⟨sending_inv _ _, sending_inv _ _, rfl, rfl, rfl, rfl, rfl, rfl, ?_, rfl⟩
  constructor <;> decide

theorem witness_InvariantKeptByStep :
    (placed halfFilled [wr .cmd 0x20000000#32] [calm]).Inv
    ∧ (nextOf (step (placed halfFilled [wr .cmd 0x20000000#32] [calm]))).isSome = true := by
  exact ⟨halfFilled_inv _ _, by decide⟩

theorem witness_FrameDecodesBack : encByte 0x7F#8 = [0x8C#8, 0xCC#8, 0xCC#8, 0xCC#8] := by decide

theorem witness_FrameLayout : [0xFF0000#24, 0x0000FF#24][1]? = some 0x0000FF#24 := by decide

/-- Both delay states, in the middle (`dly = 1`) and at their last period (`dly = 0`), with an access beside them. -/
theorem witness_DelaysLastTicks :
    Undisturbed (placed { start 0 1 with fsm := .preDelay, dly := 1#32 } [wr .color 5#32] [])
    ∧ Undisturbed (placed { start 0 1 with fsm := .postDelay } [] [calm]) := by
  exact ⟨undisturbed_of _ rfl rfl rfl, undisturbed_of _ rfl rfl rfl⟩

theorem witness_FillingLastsLeds :
    (placed halfFilled [wr .color 5#32] [calm]).Inv ∧ Undisturbed (placed halfFilled [wr .color 5#32] [calm])
    ∧ (placed halfFilled [wr .color 5#32] [calm]).fsm = .filling := by
  exact ⟨halfFilled_inv _ _, undisturbed_of _ rfl rfl rfl, rfl⟩

/-- From a state that is not armed, `to_cnt` 1 and 2, with `tx_done` high at edge 1; and from an armed one. -/
theorem witness_TimeoutAtBound :
    (Undisturbed (placed sending [wr .cmd 0x50000000#32] [done]) ∧ sending.fsm = .transmitting ∧ 1 ≤ sending.toCnt.toNat
      ∧ ∀ i < 1, (0 < i ∨ sending.armed = true) → ∃ p, [done][i]? = some p ∧ p.tx = .low)
    ∧ (Undisturbed (placed { sending with toCnt := 2#32 } [wr .timeout 9#32] [done, calm])
      ∧ ∀ i < 2, (0 < i ∨ sending.armed = true) → ∃ p, [done, calm][i]? = some p ∧ p.tx = .low)
    ∧ (Undisturbed (placed { sending with armed := true } [] [calm])
      ∧ ∀ i < 1, (0 < i ∨ true = true) → ∃ p, [calm][i]? = some p ∧ p.tx = .low) := by
  refine ⟨⟨undisturbed_of _ rfl rfl rfl, rfl, by decide, fun i hi h => ?_⟩, ⟨undisturbed_of _ rfl rfl rfl, fun i hi h => ?_⟩,
    undisturbed_of _ rfl rfl rfl, fun i hi _ => ?_⟩
  · have h : 0 < i := by rcases h with h | h; exact h; cases h
    omega
  · have h : 0 < i := by rcases h with h | h; exact h; cases h
    have hi' : i = 1 := by omega
    subst hi'
    exact ⟨calm, rfl, rfl⟩
  · have hi' : i = 0 := by omega
    subst hi'
    exact ⟨calm, rfl, rfl⟩

/-- Two periods from a state that is not armed, the first with `tx_done` high. -/
theorem witness_HangAdmitted :
    Undisturbed (placed { sending with toCnt := 0#32 } [] [done, calm])
    ∧ (placed { sending with toCnt := 0#32 } [] [done, calm]).fsm = .transmitting
    ∧ (placed { sending with toCnt := 0#32 } [] [done, calm]).toCnt = 0#32
    ∧ ∀ i < 2, (0 < i ∨ (placed { sending with toCnt := 0#32 } [] [done, calm]).armed = true) →
        ∃ p, (placed { sending with toCnt := 0#32 } [] [done, calm]).world.env[i]? = some p ∧ p.tx = .low := by
  refine ⟨undisturbed_of _ rfl rfl rfl, rfl, rfl, fun i hi h => ?_⟩
  have h : 0 < i := by rcases h with h | h; exact h; cases h
  have hi' : i = 1 := by omega
  subst hi'
  exact ⟨calm, rfl, rfl⟩

/-- The state in the middle of `FILLING` has LED 0 encoded as the table has it, and a step that keeps the table. -/
theorem witness_FillTracksTable :
    (placed halfFilled [] [calm]).Inv ∧ EncodedSoFar (placed halfFilled [] [calm])
    ∧ (nextOf (step (placed halfFilled [] [calm]))).map (·.table) = some halfFilled.table := by
  refine ⟨halfFilled_inv _ _, ⟨fun _ i hi e he => ?_, fun h => ?_⟩, by decide⟩
  · have h0 : i = 0 := Nat.lt_one_iff.1 hi
    subst h0
    have he' : e = 0xFF0000#24 := by cases he; rfl
    subst he'
    decide
  · cases h

/-- The lines `SHOWSYNC` has after its `SHOW` only read. -/
def reading : List HostLine := [.poll .status 8#32 0#32, .rd .status "st"]

theorem reading_only_reads : ∀ l ∈ reading, ∀ a, l ≠ .bus a := by
  intro l hl a
  simp only [reading, List.mem_cons, List.not_mem_nil, or_false] at hl
  rcases hl with rfl | rfl <;> simp

/-- With only reads after the `SHOW`, and with writes after it. -/
theorem witness_ShowDeliversEncFrame :
    ((placed four (wr .cmd 0x30000000#32 :: reading) []).Inv
      ∧ Undisturbed (placed four (wr .cmd 0x30000000#32 :: reading) []) ∧ four.fsm = .idle
      ∧ (placed four (wr .cmd 0x30000000#32 :: reading) []).world.prog = wr .cmd 0x30000000#32 :: reading
      ∧ (∀ l ∈ reading, ∀ a, l ≠ .bus a) ∧ 3 < four.params.nLeds)
    ∧ (placed four [wr .cmd 0x30000000#32, wr .cmd 0x20000000#32] []).Inv
    ∧ Undisturbed (placed four [wr .cmd 0x30000000#32, wr .cmd 0x20000000#32] []) := by
  exact ⟨⟨four_inv _ _, undisturbed_of _ rfl rfl rfl, rfl, rfl, reading_only_reads, by decide⟩, four_inv _ _,
    undisturbed_of _ rfl rfl rfl⟩

/-- `N_LEDS = 1`, `T_RESET_TICKS = 1` and `j = 2`: completion at edge `e4`, with a bound of 2 edges, a `tx_done` at edge `e3` that
is not honoured, and a write after the `SHOW`. -/
def shown : State :=
  placed { start 0 0 with timeout := 2#32 } [wr .cmd 0x30000000#32, wr .color 5#32] [calm, calm, calm, done, done]

theorem shown_at_entry : (nextOf (runSteps 3 shown)).map (·.toCnt) = some 2#32 := by decide

theorem witness_SuccessfulShowTimeline :
    shown.Inv ∧ Undisturbed shown ∧ shown.fsm = .idle
    ∧ shown.world.prog = wr .cmd 0x30000000#32 :: [wr .color 5#32] ∧ 2 ≤ 2
    ∧ (∀ x, runSteps (shown.params.tResetTicks + shown.params.nLeds + 1) shown = .next x → x.toCnt = 0#32 ∨ 2 ≤ x.toCnt.toNat)
    ∧ (∀ k, shown.params.tResetTicks + shown.params.nLeds + 1 < k → k < shown.params.tResetTicks + shown.params.nLeds + 2 →
        ∃ p, shown.world.env[k]? = some p ∧ p.tx = .low)
    ∧ ∃ p, shown.world.env[shown.params.tResetTicks + shown.params.nLeds + 2]? = some p ∧ p.tx = .high := by
  refine ⟨?_, undisturbed_of _ rfl rfl rfl, rfl, rfl, Nat.le_refl 2, fun x hx => ?_, fun k h1 h2 => ?_, done, rfl, rfl⟩
  · constructor <;> decide
  · have hx' : runSteps 3 shown = .next x := hx
    have h := shown_at_entry
    rw [hx'] at h
    have hc : x.toCnt = 2#32 := by simpa [nextOf] using h
    right
    rw [hc]
    decide
  · omega

/-- A `SET` of the LED that is encoded at the same edge, and a `FILL`. -/
theorem witness_FillingReadsPreEdgeEntry :
    PlainEdge (placed halfFilled [wr .cmd 0x10000001#32] [calm]) ∧ (placed halfFilled [wr .cmd 0x10000001#32] [calm]).Inv
    ∧ halfFilled.fsm = .filling ∧ WritesCommand (placed halfFilled [wr .cmd 0x10000001#32] [calm]) (0x1000#16 ++ 1#16)
    ∧ (1#16).toNat < halfFilled.params.nLeds ∧ halfFilled.table[halfFilled.idx.toNat]? = some 0x0000FF#24
    ∧ PlainEdge (placed halfFilled [wr .cmd 0x20000000#32] [calm])
    ∧ WritesCommand (placed halfFilled [wr .cmd 0x20000000#32] [calm]) 0x20000000#32 := by
  exact ⟨plainEdge_of _ rfl rfl rfl (by decide), halfFilled_inv _ _, rfl, rfl, by decide, by decide,
    plainEdge_of _ rfl rfl rfl (by decide), rfl⟩

/-- The lane's sampling, its completion, its reset, a `tx_done` with nothing outstanding, a drawn `tx_done` and a period without
power, each in a step that answers a next state. -/
theorem witness_LaneBusyFollowsTransfer :
    ([placed sending [] [calm], placed (laneOn four) [] [done], placed (laneOn four) [] [{ calm with laneReset := true }],
      placed four [] [done], placed (laneOn four) [] [{}], placed (laneOn four) [] [{ done with powerLoss := true }]].map
      (fun s => (nextOf (step s)).isSome)) = [true, true, true, true, true, true]
    ∧ (placed sending [] [calm]).txStart = true ∧ ({} : Period).tx = .drawn
    ∧ ([placed sending [] [calm], placed (laneOn four) [] [done], placed (laneOn four) [] [{ done with powerLoss := true }]].map
        (fun s => (nextOf (step s)).map (·.world.laneBusy))) = [some true, some false, some false] := by decide

/-- A `SHOW` and a `RECOVER` over a running lane, each in a step that sets its mark, and a step with every mark set before. -/
theorem witness_LaneOverlapMarked :
    (PlainEdge (placed (laneOn four) [wr .cmd 0x30000000#32] [calm])
      ∧ laneRunning (placed (laneOn four) [wr .cmd 0x30000000#32] [calm]) calm = true
      ∧ txDone (placed (laneOn four) [wr .cmd 0x30000000#32] [calm]) calm = false ∧ four.fsm = .idle
      ∧ WritesCommand (placed (laneOn four) [wr .cmd 0x30000000#32] [calm]) 0x30000000#32
      ∧ (nextOf (step (placed (laneOn four) [wr .cmd 0x30000000#32] [calm]))).map (·.world.marks.showBusy) = some true)
    ∧ (PlainEdge (placed (laneOn faulted) [wr .cmd 0x40000000#32] [calm])
      ∧ laneRunning (placed (laneOn faulted) [wr .cmd 0x40000000#32] [calm]) calm = true ∧ faulted.fsm = .fault
      ∧ txDone (placed (laneOn faulted) [wr .cmd 0x40000000#32] [calm]) calm = false
      ∧ WritesCommand (placed (laneOn faulted) [wr .cmd 0x40000000#32] [calm]) 0x40000000#32
      ∧ (nextOf (step (placed (laneOn faulted) [wr .cmd 0x40000000#32] [calm]))).map (·.world.marks.recoverBusy) = some true)
    ∧ (nextOf (step (placed { four with world := { World.initial with marks := ⟨true, true, true⟩ } } [] [calm]))).isSome
        = true := by
  exact ⟨⟨plainEdge_of _ rfl rfl rfl (by decide), rfl, rfl, rfl, rfl, by decide⟩,
    ⟨plainEdge_of _ rfl rfl rfl (by decide), rfl, rfl, rfl, rfl, by decide⟩, by decide⟩

theorem witness_GhostsDoNotSteerBlock : (nextOf (step (placed four [wr .cmd 0x30000000#32] [calm]))).isSome = true := by
  decide

/-- The largest legal values and fractional rates elaborate, and each value one past its range, and a rate of 0, does not. -/
theorem witness_ElaborationRange :
    (Params.elaborate 65535 4294967295 0x20 0#32 0#32 (mkRat 5 2) (mkRat 1 7) 0).isSome = true
    ∧ (Params.elaborate 1 1 0 0#32 0#32 1 1 0).isSome = true
    ∧ Params.elaborate 0 1 0 0#32 0#32 1 1 0 = none ∧ Params.elaborate 65536 1 0 0#32 0#32 1 1 0 = none
    ∧ Params.elaborate 1 0 0 0#32 0#32 1 1 0 = none ∧ Params.elaborate 1 4294967296 0 0#32 0#32 1 1 0 = none
    ∧ Params.elaborate 1 1 0 0#32 0#32 0 1 0 = none ∧ Params.elaborate 1 1 0 0#32 0#32 1 (mkRat (-1) 2) 0 = none := by decide

end Sys2Proof.Tests
end

section
/-! PROOFS. Elaboration: which numbers give a block, and how its parameters read (R6, U15). -/

namespace Sys2Proof

/-- A positive number is read back from the rate that holds it less one. -/
theorem Rate.value_ofRat {q : Rat} (h : 0 < q) : (Rate.ofRat q).value = q := by
  have hnum : (((Rate.ofRat q).num : Nat) : Int) = q.num := by
    have hnonneg : 0 ≤ q.num := Rat.num_nonneg.2 (Rat.le_of_lt h)
    have hne : q.num ≠ 0 := mt Rat.num_eq_zero.1 (Rat.ne_of_gt h)
    simp only [Rate.num, Rate.ofRat]
    omega
  have hden : (Rate.ofRat q).den = q.den := Nat.sub_add_cancel q.den_pos
  rw [Rate.value, hnum, hden, Rat.mkRat_self]

theorem Params.elaborate_isSome_iff (n t base : Nat) (bufBase laneDr : Word) (clk rate : Rat) (mode : Nat) :
    (Params.elaborate n t base bufBase laneDr clk rate mode).isSome = true ↔
      (1 ≤ n ∧ n ≤ 65535) ∧ (1 ≤ t ∧ t ≤ 2 ^ 32 - 1) ∧ base % 32 = 0 ∧ 0 < clk ∧ 0 < rate := by
  simp only [Params.elaborate, Option.isSome_dite, and_assoc, Nat.reducePow, Nat.reduceSub]

theorem Params.elaborate_reads {n t base : Nat} {bufBase laneDr : Word} {clk rate : Rat} {mode : Nat} {p : Params}
    (h : Params.elaborate n t base bufBase laneDr clk rate mode = some p) :
    p.nLeds = n ∧ p.tResetTicks = t ∧ p.regBase = base ∧ p.bufBase = bufBase ∧ p.laneDr = laneDr
      ∧ p.fClk = clk ∧ p.laneBitrate = rate ∧ p.laneMode = mode := by
  simp only [Params.elaborate, Option.dite_none_right_eq_some, Option.some.injEq] at h
  obtain ⟨⟨hn, -, ht, -, hbase, hclk, hrate⟩, rfl⟩ := h
  exact ⟨Nat.sub_add_cancel hn, Nat.sub_add_cancel ht, Nat.mul_div_cancel' (Nat.dvd_of_mod_eq_zero hbase), rfl, rfl,
    Rate.value_ofRat hclk, Rate.value_ofRat hrate, rfl⟩

/-- Settles O60: the guard of `elaborate` is R6's ranges, and what it stores less one reads as given. -/
theorem elaborationRange : Obligations.ElaborationRange := by
  intro n t base bufBase laneDr clk rate mode
  refine ⟨Params.elaborate_isSome_iff .., fun p hp => ?_⟩
  obtain ⟨hn, ht, hbase, hbuf, hdr, hclk, hrate, hmode⟩ := Params.elaborate_reads hp
  exact ⟨hn, ht, hbase, hbuf, hdr, hclk, hrate, hmode, congrArg (12 * ·) hn⟩

end Sys2Proof
end

section
/-! PROOFS. Rules beside those of Laws/Exec.lean: `SET`, `SHOW` and `RECOVER` and the lane's sampling case by case, and
the steps that are a period without power or the first reset edge. -/

namespace Sys2Proof.Machine

variable {s : State}

theorem execCmdSet_of_lt {index : Index} (h : index.toNat < s.params.nLeds) :
    execCmdSet index s = .next { s with table := s.table.set index.toNat (colorOperand s) } := by
  rw [execCmdSet, if_pos h]

theorem execCmdSet_of_not_lt {index : Index} (h : ¬ index.toNat < s.params.nLeds) :
    execCmdSet index s = .next (s.request (raise .indexRange)) := by
  rw [execCmdSet, if_neg h]

theorem execCmdShow_of_idle (h : s.fsm = .idle) : execCmdShow s = .next (s.markShow.enterDelay .preDelay) := by
  rw [execCmdShow, if_pos h]

theorem execCmdShow_of_ne_idle (h : s.fsm ≠ .idle) : execCmdShow s = .next (s.request (raise .showRejected)) := by
  rw [execCmdShow, if_neg h]

theorem execCmdRecover_of_fault (h : s.fsm = .fault) : execCmdRecover s = .next s.markRecover.leaveFault := by
  rw [execCmdRecover, if_pos h]

theorem execCmdRecover_of_ne_fault (h : s.fsm ≠ .fault) : execCmdRecover s = .next s := by
  rw [execCmdRecover, if_neg h]

theorem laneSample_of_txStart (h : s.txStart = true) (w : World) :
    laneSample s w = { w with laneBusy := true, frames := deliveredFrame s :: w.frames } := if_pos h

theorem laneSample_of_not_txStart (h : ¬ s.txStart = true) (w : World) : laneSample s w = w := if_neg h

theorem step_of_powerLoss (hp : (currentPeriod s).powerLoss = true) :
    step s = .next (losePower (beginPeriod s (currentPeriod s))) := by
  simp [step, hp]

theorem step_of_first_reset (hu : s.world.up = false) (hp : (currentPeriod s).powerLoss = false)
    (hr : (currentPeriod s).rst = true) :
    step s = .next (firstResetEdge (beginPeriod s (currentPeriod s))) := by
  simp [step, hu, hp, hr]

end Sys2Proof.Machine
end

section
/-! PROOFS. The marks, the observation and the bound names never steer the block (R10, R221; logs 4, 8, 9, 19). -/

namespace Sys2Proof.Machine

/-- The fields of the world that nothing of the block, the host or the lane reads. -/
structure Ghosts where
  marks : Marks
  reads : List Word
  frames : List (List Byte)
  vars : List (String × Word)

/-- `w` with other ghosts. -/
def World.withGhosts (w : World) (g : Ghosts) : World :=
  { w with marks := g.marks, reads := g.reads, frames := g.frames, vars := g.vars }

/-- `s` with other ghosts. -/
def State.withGhosts (s : State) (g : Ghosts) : State := { s with world := s.world.withGhosts g }

/-! ### What a step reads -/

@[simp] theorem currentPeriod_withGhosts (s : State) (g : Ghosts) :
    currentPeriod (s.withGhosts g) = currentPeriod s := rfl
@[simp] theorem presented_withGhosts (s : State) (g : Ghosts) (p : Period) :
    presented (s.withGhosts g) p = presented s p := rfl
@[simp] theorem presentedFlaw_withGhosts (s : State) (g : Ghosts) (p : Period) :
    presentedFlaw (s.withGhosts g) p = presentedFlaw s p := rfl
@[simp] theorem txDone_withGhosts (s : State) (g : Ghosts) (p : Period) :
    txDone (s.withGhosts g) p = txDone s p := rfl
@[simp] theorem fsmStep_withGhosts (s : State) (g : Ghosts) (done : Bool) :
    fsmStep (s.withGhosts g) done = fsmStep s done := rfl

@[simp] theorem withGhosts_params (s : State) (g : Ghosts) : (s.withGhosts g).params = s.params := rfl
@[simp] theorem withGhosts_fsm (s : State) (g : Ghosts) : (s.withGhosts g).fsm = s.fsm := rfl
@[simp] theorem withGhosts_txStart (s : State) (g : Ghosts) : (s.withGhosts g).txStart = s.txStart := rfl
@[simp] theorem withGhosts_world (s : State) (g : Ghosts) : (s.withGhosts g).world = s.world.withGhosts g := rfl

/-! ### What a step does: the same, up to the ghosts it leaves -/

theorem beginPeriod_withGhosts (s : State) (g : Ghosts) (p : Period) :
    ∃ g', beginPeriod (s.withGhosts g) p = (beginPeriod s p).withGhosts g' :=
  ⟨{ g with marks := (beginPeriod (s.withGhosts g) p).world.marks }, rfl⟩

/-- A host access completes with the same effect, whatever the ghosts are. -/
def ActsAlike (f : State → Host.Outcome State Fault Refusal) (s : State) (g : Ghosts) : Prop :=
  ∃ t g', f s = .next t ∧ f (s.withGhosts g) = .next (t.withGhosts g')

theorem actsAlike_pushRead (v : State → Word) (s : State) (g : Ghosts) (hv : v (s.withGhosts g) = v s) :
    ActsAlike (fun x => .next (x.pushRead (v x))) s g :=
  ⟨_, { g with reads := v s :: g.reads }, rfl, by simp only [hv]; rfl⟩

theorem actsAlike_execCmdSet (index : Index) (s : State) (g : Ghosts) : ActsAlike (execCmdSet index) s g := by
  by_cases hi : index.toNat < s.params.nLeds
  · exact ⟨_, g, execCmdSet_of_lt hi, execCmdSet_of_lt hi⟩
  · exact ⟨_, g, execCmdSet_of_not_lt hi, execCmdSet_of_not_lt hi⟩

theorem actsAlike_execCmdShow (s : State) (g : Ghosts) : ActsAlike execCmdShow s g := by
  by_cases hs : s.fsm = .idle
  · exact ⟨_, { g with marks := (s.withGhosts g).markShow.world.marks }, execCmdShow_of_idle hs, execCmdShow_of_idle hs⟩
  · exact ⟨_, g, execCmdShow_of_ne_idle hs, execCmdShow_of_ne_idle hs⟩

theorem actsAlike_execCmdRecover (s : State) (g : Ghosts) : ActsAlike execCmdRecover s g := by
  by_cases hs : s.fsm = .fault
  · exact ⟨_, { g with marks := (s.withGhosts g).markRecover.world.marks }, execCmdRecover_of_fault hs,
      execCmdRecover_of_fault hs⟩
  · exact ⟨_, g, execCmdRecover_of_ne_fault hs, execCmdRecover_of_ne_fault hs⟩

theorem actsAlike_execWrCmd (w : Word) (s : State) (g : Ghosts) : ActsAlike (execWrCmd w) s g := by
  simp only [ActsAlike, execWrCmd]
  split
  · split
    · exact ⟨_, g, rfl, rfl⟩
    · split
      · exact actsAlike_execCmdSet _ s g
      · split
        · exact ⟨_, g, rfl, rfl⟩
        · split
          · exact actsAlike_execCmdShow s g
          · split
            · exact actsAlike_execCmdRecover s g
            · exact ⟨_, g, rfl, rfl⟩
  · exact ⟨_, g, rfl, rfl⟩

theorem actsAlike_exec (i : Instr) (s : State) (g : Ghosts) : ActsAlike (exec i) s g := by
  cases i with
  | rdCmd => exact actsAlike_pushRead (fun _ => 0#32) s g rfl
  | rdColor => exact actsAlike_pushRead colorWord s g rfl
  | rdStatus => exact actsAlike_pushRead statusWord s g rfl
  | rdNleds => exact actsAlike_pushRead nledsWord s g rfl
  | rdResetTicks => exact actsAlike_pushRead resetTicksWord s g rfl
  | rdTimeout => exact actsAlike_pushRead State.timeout s g rfl
  | rdRsvd a => exact actsAlike_pushRead (fun _ => 0#32) s g rfl
  | wrCmd w => exact actsAlike_execWrCmd w s g
  | wrColor w => exact ⟨_, g, rfl, rfl⟩
  | wrStatus w => exact ⟨_, g, rfl, rfl⟩
  | wrNleds w => exact ⟨_, g, rfl, rfl⟩
  | wrResetTicks w => exact ⟨_, g, rfl, rfl⟩
  | wrTimeout w => exact ⟨_, g, rfl, rfl⟩
  | wrRsvd a w => exact ⟨_, g, rfl, rfl⟩
  | cmdNop => exact ⟨_, g, rfl, rfl⟩
  | cmdSet index => exact actsAlike_execCmdSet index s g
  | cmdFill => exact ⟨_, g, rfl, rfl⟩
  | cmdShow => exact actsAlike_execCmdShow s g
  | cmdRecover => exact actsAlike_execCmdRecover s g
  | cmdClrerr => exact ⟨_, g, rfl, rfl⟩
  | illegalOp67 w => exact ⟨_, g, rfl, rfl⟩
  | illegalOp8F w => exact ⟨_, g, rfl, rfl⟩

theorem hostHalf_withGhosts {s t : State} {p : Period} (h : hostHalf s p = .next t) (g : Ghosts) :
    ∃ g', hostHalf (s.withGhosts g) p = .next (t.withGhosts g') := by
  rcases hostHalf_cases h with ⟨hp, rfl⟩ | ⟨a, i, hp, hi, ht⟩
  · exact ⟨g, by simp only [hostHalf, presented_withGhosts, hp]⟩
  · obtain ⟨t', g', ht', hg⟩ := actsAlike_exec i s g
    obtain rfl : t = t' := by simpa [ht] using ht'
    exact ⟨g', by simp only [hostHalf, presented_withGhosts, hp, hi, hg]⟩

theorem laneSample_withGhosts (s : State) (gs : Ghosts) (w : World) (g : Ghosts) :
    ∃ g', laneSample (s.withGhosts gs) (w.withGhosts g) = (laneSample s w).withGhosts g' := by
  by_cases hs : s.txStart = true
  · refine ⟨{ g with frames := deliveredFrame (s.withGhosts gs) :: g.frames }, (laneSample_of_txStart hs _).trans ?_⟩
    rw [laneSample_of_txStart hs]
    rfl
  · refine ⟨g, (laneSample_of_not_txStart hs _).trans ?_⟩
    rw [laneSample_of_not_txStart hs]

theorem endWorld_withGhosts (s : State) (gs : Ghosts) (p : Period) (w : World) (g : Ghosts) :
    ∃ g', endWorld (s.withGhosts gs) p (w.withGhosts g) = (endWorld s p w).withGhosts g' := by
  obtain ⟨g', hg'⟩ := laneSample_withGhosts s gs w g
  refine ⟨{ g' with vars := varsAfter (s.withGhosts gs) }, ?_⟩
  simp only [endWorld, hg']
  rfl

theorem resetEdge_withGhosts (s : State) (g : Ghosts) (p : Period) :
    ∃ g', resetEdge (s.withGhosts g) p = (resetEdge s p).withGhosts g' := by
  obtain ⟨g', hg'⟩ := endWorld_withGhosts s g p s.world g
  refine ⟨{ g' with reads := readsAtReset (s.withGhosts g) p }, ?_⟩
  simp only [resetEdge, withGhosts_world, hg']
  rfl

/-- Ghosts never steer: with other ghosts a step goes on to the same state, up to its ghosts. -/
theorem step_withGhosts {s s' : State} (h : step s = .next s') (g : Ghosts) :
    ∃ g', step (s.withGhosts g) = .next (s'.withGhosts g') := by
  obtain ⟨gb, hb⟩ := beginPeriod_withGhosts s g (currentPeriod s)
  rcases step_cases h with ⟨hp, rfl⟩ | ⟨hp, hu, hr, hf, rfl⟩ | ⟨hp, hu, hr, rfl⟩ | ⟨hp, hu, hr, t, u, ht, hfsm, rfl⟩
  · refine ⟨gb, (step_of_powerLoss (s := s.withGhosts g) hp).trans ?_⟩
    rw [currentPeriod_withGhosts, hb]
    rfl
  · obtain ⟨g', hg'⟩ := resetEdge_withGhosts (beginPeriod s (currentPeriod s)) gb (currentPeriod s)
    refine ⟨g', (step_of_reset (s := s.withGhosts g) hu hp hr hf).trans ?_⟩
    rw [currentPeriod_withGhosts, hb, hg']
  · refine ⟨gb, (step_of_first_reset (s := s.withGhosts g) hu hp hr).trans ?_⟩
    rw [currentPeriod_withGhosts, hb]
    rfl
  · obtain ⟨gt, hgt⟩ := hostHalf_withGhosts ht gb
    obtain ⟨g', hg'⟩ := endWorld_withGhosts (beginPeriod s (currentPeriod s)) gb (currentPeriod s) t.world gt
    refine ⟨g', (step_of_halves (s := s.withGhosts g) (t := t.withGhosts gt) (u := u) hu hp hr ?_ ?_).trans ?_⟩
    · rw [currentPeriod_withGhosts, hb, hgt]
    · rw [currentPeriod_withGhosts, hb, fsmStep_withGhosts, txDone_withGhosts, hfsm]
    · rw [currentPeriod_withGhosts, hb, withGhosts_world, hg']
      rfl

/-- Settles O59: every half of a step reads none of these fields, so it answers the same up to them. -/
theorem ghostsDoNotSteerBlock : Obligations.GhostsDoNotSteerBlock := by
  intro s s' m reads frames vars h
  obtain ⟨g', hg'⟩ := step_withGhosts h ⟨m, reads, frames, vars⟩
  exact ⟨s'.withGhosts g', hg', rfl⟩

end Sys2Proof.Machine
end

section
/-! PROOFS. An edge of a block that runs undisturbed, and the hang the spec admits (R10, R225, R229). -/

namespace Sys2Proof.Machine

/-! ### What a host access leaves unchanged -/

/-- A host access changes nothing of the world but the marks and the values read. -/
theorem HostEffect.world_eq {s t : State} (h : HostEffect s t) :
    t.world = { s.world with marks := t.world.marks, reads := t.world.reads } := by
  cases h <;> rfl

theorem HostEffect.toCnt_eq {s t : State} (h : HostEffect s t) : t.toCnt = s.toCnt := by cases h <;> rfl

/-- Only `SHOW` in `IDLE` and `RECOVER` in `FAULT` move the state machine (R198, R199). -/
theorem HostEffect.fsm_eq {s t : State} (h : HostEffect s t) (hi : s.fsm ≠ .idle) (hf : s.fsm ≠ .fault) :
    t.fsm = s.fsm := by
  cases h with
  | showFrame h => exact absurd h hi
  | recover h => exact absurd h hf
  | _ => rfl

/-! ### A plain edge -/

theorem PlainEdge.hostHalf_next {s : State} (h : PlainEdge s) :
    ∃ t, hostHalf (beginPeriod s (currentPeriod s)) (currentPeriod s) = .next t
      ∧ HostEffect (beginPeriod s (currentPeriod s)) t := by
  rcases hostHalf_stops (s := beginPeriod s (currentPeriod s)) (p := currentPeriod s) with
    ⟨t, ht⟩ | ⟨a, f, ha, hf, -⟩
  · exact ⟨t, ht, hostHalf_effect ht⟩
  · exact absurd ((h.conforming a ha).symm.trans hf) nofun

/-- A plain edge goes on wherever the state machine does: an effect `t` of the host, and the updates `u`. -/
theorem PlainEdge.step_next {s : State} {u : FsmUpdate} (h : PlainEdge s)
    (hu : fsmStep (beginPeriod s (currentPeriod s)) (txDone s (currentPeriod s)) = .ok u) :
    ∃ t, HostEffect (beginPeriod s (currentPeriod s)) t ∧ step s = .next { t.applyFsm u with
      world := endWorld (beginPeriod s (currentPeriod s)) (currentPeriod s) t.world } := by
  obtain ⟨t, ht, he⟩ := h.hostHalf_next
  exact ⟨t, he, step_of_halves h.up h.powered h.noReset ht hu⟩

/-- What a plain edge does to the inputs and the program: the period is spent and the host is at its next line. -/
theorem PlainEdge.world_of_step {s s' : State} (h : PlainEdge s) (hs : step s = .next s') :
    s'.world.up = true ∧ s'.world.env = s.world.env.tail ∧ s'.world.prog = progAfter s (currentPeriod s) := by
  rcases step_cases hs with ⟨hp, -⟩ | ⟨-, -, hr, -⟩ | ⟨-, -, hr, -⟩ | ⟨-, -, -, t, u, ht, -, rfl⟩
  · simp [h.powered] at hp
  · simp [h.noReset] at hr
  · simp [h.noReset] at hr
  · have hw := (hostHalf_effect ht).world_eq
    refine ⟨?_, ?_, rfl⟩
    · rw [endWorld_up, hw]; exact h.up
    · rw [endWorld_env, hw]; rfl

/-! ### An undisturbed run -/

theorem flaw_readOf (r : HostReg) : (readOf r).flaw = none := by cases r <;> rfl

theorem mem_of_mem_dropEmptyIdle {l : HostLine} {prog : List HostLine} (h : l ∈ dropEmptyIdle prog) : l ∈ prog := by
  fun_induction dropEmptyIdle prog with
  | case1 rest ih => exact List.mem_cons_of_mem _ (ih h)
  | case2 prog => exact h

/-- Every line ahead after a period was ahead before it, or is what is left of an `IDLEFOR`. -/
theorem mem_progAfter {s : State} {p : Period} {l : HostLine} (h : l ∈ progAfter s p) :
    l ∈ s.world.prog ∨ ∃ n, l = .idleFor n := by
  have hdrop : ∀ l, l ∈ dropEmptyIdle s.world.prog → l ∈ s.world.prog := fun _ => mem_of_mem_dropEmptyIdle
  simp only [progAfter] at h
  generalize dropEmptyIdle s.world.prog = d at h hdrop
  cases d with
  | nil => simp at h
  | cons x rest =>
    have hrest : l ∈ rest → l ∈ s.world.prog := fun hl => hdrop l (List.mem_cons_of_mem _ hl)
    cases x with
    | bus a => exact .inl (hrest h)
    | rd r name => exact .inl (hrest h)
    | poll r mask val =>
      simp only at h
      split at h
      · exact .inl (hrest h)
      · exact .inl (hdrop l h)
    | idleFor n =>
      simp only at h
      split at h
      · exact .inl (hrest h)
      · exact (List.mem_cons.1 h).elim (fun hl => .inr ⟨_, hl⟩) (fun hl => .inl (hrest hl))

theorem Undisturbed.currentPeriod_quiet {s : State} (h : Undisturbed s) :
    (currentPeriod s).rst = false ∧ (currentPeriod s).powerLoss = false := by
  cases he : s.world.env with
  | nil => simp [currentPeriod, he]
  | cons p env => simpa [currentPeriod, he] using h.quiet p (by simp [he])

theorem Undisturbed.flaw_presented {s : State} (h : Undisturbed s) {p : Period} {a : BusAccess}
    (ha : presented s p = some a) : a.flaw = none := by
  simp only [presented] at ha
  split at ha
  · rename_i b hl
    cases ha
    have := h.conforming _ (mem_of_mem_dropEmptyIdle (List.mem_of_mem_head? hl))
    simpa [HostLine.conforming] using this
  · cases ha; exact flaw_readOf _
  · split at ha
    · cases ha
    · cases ha; exact flaw_readOf _
  · cases ha
  · cases ha

theorem Undisturbed.plainEdge {s : State} (h : Undisturbed s) : PlainEdge s :=
  ⟨h.up, h.currentPeriod_quiet.2, h.currentPeriod_quiet.1, fun _ => h.flaw_presented⟩

theorem Undisturbed.of_step {s s' : State} (h : Undisturbed s) (hs : step s = .next s') : Undisturbed s' := by
  obtain ⟨hup, henv, hprog⟩ := h.plainEdge.world_of_step hs
  refine ⟨hup, fun p hp => h.quiet p (List.mem_of_mem_tail (henv ▸ hp)), fun l hl => ?_⟩
  rcases mem_progAfter (hprog ▸ hl) with hl | ⟨n, rfl⟩
  · exact h.conforming l hl
  · rfl

theorem runSteps_succ_of_step {s s' : State} (n : Nat) (h : step s = .next s') :
    runSteps (n + 1) s = runSteps n s' := by
  simp only [runSteps, h]

/-! ### The hang -/

theorem fsmStep_of_transmitting {s : State} (h : s.fsm = .transmitting) (done : Bool) :
    fsmStep s done = .ok (fsmTransmitting s done) := by
  simp only [fsmStep, h]

/-- With no bound running and no completion honoured, the state machine does nothing but arm (R225, R229). -/
theorem fsmStep_of_hang {s : State} {done : Bool} (hf : s.fsm = .transmitting) (hc : s.toCnt = 0#32)
    (hd : (s.armed && done) = false) : fsmStep s done = .ok { armed := some true } := by
  rw [fsmStep_of_transmitting hf]
  simp [fsmTransmitting, hc, hd]

theorem txDone_of_low {s : State} {p : Period} (h : s.world.env[0]? = some p) (hl : p.tx = .low) :
    txDone s (currentPeriod s) = false := by
  have hp : currentPeriod s = p := by simp [currentPeriod, List.headD_eq_head?_getD, List.head?_eq_getElem?, h]
  simp [txDone, Draw.level, hp, hl]

/-- One edge of the hang. -/
theorem step_of_hang {s : State} (h : PlainEdge s) (hf : s.fsm = .transmitting) (hc : s.toCnt = 0#32)
    (hd : (s.armed && txDone s (currentPeriod s)) = false) :
    ∃ s', step s = .next s' ∧ s'.fsm = .transmitting ∧ s'.toCnt = 0#32 := by
  obtain ⟨t, he, hs⟩ := h.step_next (fsmStep_of_hang (s := beginPeriod s (currentPeriod s)) hf hc hd)
  refine ⟨_, hs, ?_, he.toCnt_eq.trans hc⟩
  exact (he.fsm_eq (by simp [hf]) (by simp [hf])).trans hf

/-- Settles O50, by induction on the number of edges: one edge of the hang leaves the state the next one starts from. -/
theorem hangAdmitted : Obligations.HangAdmitted := by
  intro s n
  induction n generalizing s with
  | zero => exact fun _ hf hc _ => ⟨s, rfl, hf, hc⟩
  | succ n ih =>
    intro hs hf hc hlow
    have hd : (s.armed && txDone s (currentPeriod s)) = false := by
      cases ha : s.armed with
      | false => rfl
      | true =>
        obtain ⟨p, hp, hl⟩ := hlow 0 (Nat.succ_pos n) (.inr ha)
        exact txDone_of_low hp hl
    obtain ⟨s', hstep, hf', hc'⟩ := step_of_hang hs.plainEdge hf hc hd
    obtain ⟨-, henv, -⟩ := hs.plainEdge.world_of_step hstep
    rw [runSteps_succ_of_step n hstep]
    refine ih s' (hs.of_step hstep) hf' hc' fun i hi _ => ?_
    obtain ⟨p, hp, hl⟩ := hlow (i + 1) (Nat.succ_lt_succ hi) (.inl (Nat.succ_pos i))
    exact ⟨p, by rw [henv, List.getElem?_tail, hp], hl⟩

end Sys2Proof.Machine
end

section
/-! PROOFS. Everything the frame state machine can do at an edge, said once, and what a host access leaves of the fields it
reads (R221 to R227). -/

namespace Sys2Proof.Machine

/-- Everything the frame state machine can ask for from `s`, with `done` the level of `tx_done` at the edge. -/
inductive FsmEffect (s : State) (done : Bool) : FsmUpdate → Prop where
  | rest (h : s.fsm = .idle ∨ s.fsm = .fault) : FsmEffect s done {}
  | countDown (h : s.fsm = .preDelay ∨ s.fsm = .postDelay) (hd : s.dly ≠ 0#32) :
      FsmEffect s done { dly := some (s.dly - 1#32) }
  | beginFilling (h : s.fsm = .preDelay) (hd : s.dly = 0#32) :
      FsmEffect s done { fsm := some .filling, idx := some 0#16 }
  | fillLed (e : Color) (h : s.fsm = .filling) (he : s.table[s.idx.toNat]? = some e)
      (hi : s.idx.toNat ≠ s.params.lastLed.val) :
      FsmEffect s done { bufWrites := bytesAt (12 * s.idx.toNat) (encLed e), idx := some (s.idx + 1#16) }
  | fillLast (e : Color) (h : s.fsm = .filling) (he : s.table[s.idx.toNat]? = some e)
      (hi : s.idx.toNat = s.params.lastLed.val) :
      FsmEffect s done
        { bufWrites := bytesAt (12 * s.idx.toNat) (encLed e), fsm := some .transmitting, armed := some false,
          toCnt := some s.timeout }
  | complete (h : s.fsm = .transmitting) (hd : (s.armed && done) = true) :
      FsmEffect s done { fsm := some .postDelay, dly := some (dlyLoad s) }
  | timeOut (h : s.fsm = .transmitting) (hd : (s.armed && done) = false) (hc : s.toCnt = 1#32) :
      FsmEffect s done takeTxTimeout
  | waitBounded (h : s.fsm = .transmitting) (hd : (s.armed && done) = false) (hc : 1#32 < s.toCnt) :
      FsmEffect s done { armed := some true, toCnt := some (s.toCnt - 1#32) }
  | waitUnbounded (h : s.fsm = .transmitting) (hd : (s.armed && done) = false) (hc : s.toCnt = 0#32) :
      FsmEffect s done { armed := some true }
  | endDelay (h : s.fsm = .postDelay) (hd : s.dly = 0#32) : FsmEffect s done { fsm := some .idle }

theorem fsmPreDelay_effect {s : State} (h : s.fsm = .preDelay) (done : Bool) :
    FsmEffect s done (fsmPreDelay s done) := by
  simp only [fsmPreDelay]
  split
  · rename_i hd; exact .beginFilling h hd
  · rename_i hd; exact .countDown (.inl h) hd

theorem fsmFillLed_effect {s : State} {e : Color} (h : s.fsm = .filling) (he : s.table[s.idx.toNat]? = some e)
    (done : Bool) : FsmEffect s done (fsmFillLed s e) := by
  simp only [fsmFillLed]
  split
  · rename_i hi; exact .fillLast e h he hi
  · rename_i hi; exact .fillLed e h he hi

theorem fsmTransmitting_effect {s : State} (h : s.fsm = .transmitting) (done : Bool) :
    FsmEffect s done (fsmTransmitting s done) := by
  simp only [fsmTransmitting]
  split
  · rename_i hd; exact .complete h hd
  · rename_i hd
    have hd' := Bool.eq_false_iff.2 hd
    split
    · rename_i hc; exact .timeOut h hd' hc
    · split
      · rename_i hc; exact .waitBounded h hd' hc
      · exact .waitUnbounded h hd' (by bv_omega)

theorem fsmPostDelay_effect {s : State} (h : s.fsm = .postDelay) (done : Bool) :
    FsmEffect s done (fsmPostDelay s done) := by
  simp only [fsmPostDelay]
  split
  · rename_i hd; exact .endDelay h hd
  · rename_i hd; exact .countDown (.inr h) hd

theorem fsmEffect_of_fsmStep {s : State} {done : Bool} {u : FsmUpdate} (hu : fsmStep s done = .ok u) :
    FsmEffect s done u := by
  simp only [fsmStep] at hu
  split at hu
  · rename_i h; cases hu; exact .rest (.inl h)
  · rename_i h; cases hu; exact fsmPreDelay_effect h done
  · rename_i h
    split at hu
    · rename_i e he; cases hu; exact fsmFillLed_effect h he done
    · cases hu
  · rename_i h; cases hu; exact fsmTransmitting_effect h done
  · rename_i h; cases hu; exact fsmPostDelay_effect h done
  · rename_i h; cases hu; exact .rest (.inr h)

/-- In `IDLE` and `FAULT` the state machine asks for nothing (R222, R227). -/
theorem fsmStep_of_rest {s : State} (h : s.fsm = .idle ∨ s.fsm = .fault) (done : Bool) : fsmStep s done = .ok {} := by
  rcases h with h | h <;> simp only [fsmStep, h] <;> rfl

theorem FsmEffect.bufWrites_eq_nil {s : State} {done : Bool} {u : FsmUpdate} (h : FsmEffect s done u)
    (hs : s.fsm ≠ .filling) : u.bufWrites = [] := by
  cases h with
  | fillLed e h => exact absurd h hs
  | fillLast e h => exact absurd h hs
  | _ => rfl

@[simp] theorem State.applyFsm_none (s : State) : s.applyFsm {} = s := by
  simp [State.applyFsm]

/-! ### What a host access leaves -/

theorem HostEffect.params_eq {s t : State} (h : HostEffect s t) : t.params = s.params := by cases h <;> rfl

theorem HostEffect.idx_eq {s t : State} (h : HostEffect s t) : t.idx = s.idx := by cases h <;> rfl

theorem HostEffect.buf_eq {s t : State} (h : HostEffect s t) : t.buf = s.buf := by cases h <;> rfl

theorem HostEffect.frames_eq {s t : State} (h : HostEffect s t) : t.world.frames = s.world.frames := by
  cases h <;> rfl

/-- Only `SHOW` in `IDLE` and `RECOVER` in `FAULT` load `dly` (R198, R199). -/
theorem HostEffect.dly_eq {s t : State} (h : HostEffect s t) (hi : s.fsm ≠ .idle) (hf : s.fsm ≠ .fault) :
    t.dly = s.dly := by
  cases h with
  | showFrame h => exact absurd h hi
  | recover h => exact absurd h hf
  | _ => rfl

theorem HostEffect.table_length {s t : State} (h : HostEffect s t) (hs : s.table.length = s.params.nLeds) :
    t.table.length = s.params.nLeds := by
  cases h with
  | setLed k hk => exact List.length_set.trans hs
  | fillTable => exact List.length_replicate
  | _ => exact hs

/-- Settles O32: only `FILLING` asks for writes of `buf`, and neither the host nor a reset edge touches it. -/
theorem bufferWrittenOnlyInFilling : Obligations.BufferWrittenOnlyInFilling := by
  intro s s' hstep hup hs
  rcases step_cases hstep with ⟨-, rfl⟩ | ⟨-, -, -, -, rfl⟩ | ⟨-, hdown, -⟩ | ⟨-, -, hr, t, u, ht, hu, rfl⟩
  · rfl
  · rfl
  · exact absurd hup (by simp [hdown])
  · have hf : s.fsm ≠ .filling := hs.resolve_right (by simp [hr])
    have hw : u.bufWrites = [] := (fsmEffect_of_fsmStep hu).bufWrites_eq_nil hf
    calc (t.applyFsm u).buf = t.buf := by simp [hw]
      _ = s.buf := (hostHalf_effect ht).buf_eq

end Sys2Proof.Machine
end

section
/-! PROOFS. The invariant: it holds at reset, and the host's half, the state machine's half and the lane's sampling keep it
(R31, R40, R41, R149, R228, R232, R234). -/

namespace Sys2Proof.Machine

/-! ### `buf` and the frames taken from it -/

/-- `m` is a canonical buffer of a block with the parameters `p`, and only the encoder wrote it (R41, R142). -/
structure Memory.Encoded (p : Params) (m : Memory) : Prop where
  canonical : m.wf
  inRange : ∀ c ∈ m, c.1 < p.bufLen
  encoded : ∀ c ∈ m, isEncodedByte c.2 = true

theorem State.Inv.buf_encoded {s : State} (h : s.Inv) : s.buf.Encoded s.params :=
  ⟨h.bufCanonical, h.bufInRange, h.bufEncoded⟩

theorem Memory.encoded_nil (p : Params) : Memory.Encoded p [] := ⟨List.Pairwise.nil, nofun, nofun⟩

/-- The twelve byte writes of an LED of the table keep the buffer's form (R224). -/
theorem Memory.Encoded.writeLed {p : Params} {m : Memory} (h : m.Encoded p) {i : Nat} (hi : i < p.nLeds) (e : Color) :
    (m.writeAll (bytesAt (12 * i) (encLed e))).Encoded p where
  canonical := Memory.writeAll_wf _ h.canonical
  inRange c hc := by
    rcases Memory.mem_writeAll hc with hc | hc
    · obtain ⟨-, hlt, -⟩ := mem_bytesAt hc
      rw [length_encLed] at hlt
      simp only [Params.bufLen]
      omega
    · exact h.inRange c hc
  encoded c hc := by
    rcases Memory.mem_writeAll hc with hc | hc
    · obtain ⟨-, -, hmem⟩ := mem_bytesAt hc
      exact isEncodedByte_of_mem_encLed hmem
    · exact h.encoded c hc

/-- Once LED `i` is encoded, every byte up to its last one has been written (R224). -/
theorem Memory.isSome_read?_writeLed {m : Memory} {i : Nat} (h : ∀ k < 12 * i, (m.read? k).isSome = true) (e : Color) :
    ∀ k < 12 * (i + 1), ((m.writeAll (bytesAt (12 * i) (encLed e))).read? k).isSome = true := by
  intro k hk
  rw [Memory.read?_writeAll_bytesAt]
  split
  · rw [isSome_getElem?, length_encLed]
    omega
  · rename_i hout
    rw [length_encLed] at hout
    exact h k (by omega)

/-- What every frame delivered by a block with the parameters `p` is (R149, R232). -/
def EncodedFrame (p : Params) (f : List Byte) : Prop := f.length = p.bufLen ∧ ∀ b ∈ f, isEncodedByte b = true

/-- R234: at the edge that samples `tx_start` no byte of the frame is unspecified. -/
theorem State.Inv.encodedFrame_deliveredFrame {s : State} (h : s.Inv) (ht : s.txStart = true) :
    EncodedFrame s.params (deliveredFrame s) := by
  have htx : s.fsm = .transmitting := by
    simp only [State.txStart, Bool.and_eq_true, beq_iff_eq] at ht
    exact ht.1
  refine ⟨by simp [deliveredFrame], fun b hb => ?_⟩
  obtain ⟨k, hk, rfl⟩ := List.mem_map.1 hb
  obtain ⟨v, hv⟩ := Option.isSome_iff_exists.1 (h.wholeInTransmitting htx k (List.mem_range.1 hk))
  have hbyte : laneByte s k = v := by simp [laneByte, hv]
  rw [hbyte]
  exact h.bufEncoded (k, v) (Memory.exists_mem_of_read? hv)

theorem State.Inv.encodedFrame_endWorld {s : State} (h : s.Inv) {p : Period} {w : World}
    (hw : w.frames = s.world.frames) : ∀ f ∈ (endWorld s p w).frames, EncodedFrame s.params f := by
  intro f hf
  rw [endWorld_frames, hw] at hf
  split at hf
  · rename_i ht
    rcases List.mem_cons.1 hf with rfl | hf
    · exact h.encodedFrame_deliveredFrame ht
    · exact h.framesEncoded f hf
  · exact h.framesEncoded f hf

theorem State.Inv.withWorld {s : State} (h : s.Inv) {w : World} (hw : ∀ f ∈ w.frames, EncodedFrame s.params f) :
    ({ s with world := w } : State).Inv :=
  { h with framesEncoded := hw }

/-! ### Reset -/

/-- Of the state before a reset edge only `buf` and the frames delivered matter. -/
theorem State.inv_resetBlock {s : State} (hb : s.buf.Encoded s.params)
    (hf : ∀ f ∈ s.world.frames, EncodedFrame s.params f) : s.resetBlock.Inv where
  tableLength := List.length_replicate
  idxInTable := Nat.succ_pos _
  dlyBounded := Nat.succ_pos _
  bufCanonical := hb.canonical
  bufInRange := hb.inRange
  bufEncoded := hb.encoded
  filledBelowIdx := nofun
  wholeInTransmitting := nofun
  framesEncoded := hf

theorem State.inv_resetWith (p : Params) : (State.resetWith p).Inv :=
  State.inv_resetBlock (s := State.resetWith p) (Memory.encoded_nil p) nofun

/-- Settles O41: the reset state is a reset block with an empty buffer and nothing delivered. -/
theorem invariantAtReset : Obligations.InvariantAtReset :=
  ⟨State.inv_resetWith, State.inv_resetWith Config.params⟩

theorem statusWord_of_idle_clear {s : State} (hf : s.fsm = .idle) (he : s.err = ErrFlags.clear) :
    statusWord s = 0#32 := by
  simp only [statusWord, hf, he]
  decide

/-- Settles O38, field by field. -/
theorem resetValues : Obligations.ResetValues := by
  refine ⟨⟨Config.params, rfl⟩, fun p => ?_⟩
  have hentry : ∀ i < p.nLeds, (State.resetWith p).table[i]? = some 0#24 :=
    fun i hi => List.getElem?_replicate_of_lt hi
  exact ⟨rfl, rfl, rfl, rfl, rfl, rfl, rfl, rfl, List.length_replicate, hentry, rfl,
    statusWord_of_idle_clear rfl rfl⟩

/-! ### The host's half of an edge -/

theorem dlyLoad_lt (s : State) : (dlyLoad s).toNat < s.params.tResetTicks := by
  have := s.params.lastTick.isLt
  simp only [dlyLoad, BitVec.toNat_ofNat, Params.tResetTicks]
  omega

theorem State.Inv.enterDelay {s : State} (h : s.Inv) {d : FrameState} (hf : d ≠ .filling) (ht : d ≠ .transmitting) :
    (s.enterDelay d).Inv :=
  { h with
    dlyBounded := dlyLoad_lt s
    filledBelowIdx := fun hd => absurd hd hf
    wholeInTransmitting := fun hd => absurd hd ht }

theorem State.Inv.of_hostEffect {s t : State} (h : s.Inv) (he : HostEffect s t) : t.Inv := by
  cases he with
  | setLed k hk => exact { h with tableLength := List.length_set.trans h.tableLength }
  | fillTable => exact { h with tableLength := List.length_replicate }
  | showFrame hs =>
    have hm : s.markShow.Inv := { h with }
    exact hm.enterDelay nofun nofun
  | recover hs =>
    have hm : s.markRecover.Inv := { h with }
    exact hm.enterDelay nofun nofun
  | _ => exact { h with }

/-! ### The state machine's half -/

/-- What the state machine asks for keeps the invariant of the state it read (R223 to R226). -/
theorem State.Inv.of_fsmEffect {s : State} {done : Bool} {u : FsmUpdate} (h : s.Inv) (hu : FsmEffect s done u) :
    (s.applyFsm u).Inv := by
  cases hu with
  | rest hs => rwa [State.applyFsm_none]
  | countDown hs hd =>
    have hlt : (s.dly - 1#32).toNat < s.params.tResetTicks := by
      have := h.dlyBounded
      bv_omega
    exact { h with dlyBounded := hlt }
  | beginFilling hs hd =>
    exact { h with
      idxInTable := Nat.succ_pos _
      filledBelowIdx := fun _ k hk => absurd hk (Nat.not_lt_zero k)
      wholeInTransmitting := nofun }
  | fillLed e hs he hi =>
    have hb := h.buf_encoded.writeLed h.idxInTable e
    have hnext : s.idx.toNat + 1 < s.params.nLeds := by
      have hlt := h.idxInTable
      simp only [Params.nLeds] at hlt ⊢
      omega
    have hidx : (s.idx + 1#16).toNat = s.idx.toNat + 1 := by
      have := s.params.nLeds_range
      bv_omega
    exact { h with
      idxInTable := hidx ▸ hnext
      bufCanonical := hb.canonical
      bufInRange := hb.inRange
      bufEncoded := hb.encoded
      filledBelowIdx := fun _ k hk => Memory.isSome_read?_writeLed (h.filledBelowIdx hs) e k (hidx ▸ hk)
      wholeInTransmitting := fun ht => nomatch hs.symm.trans ht }
  | fillLast e hs he hi =>
    have hb := h.buf_encoded.writeLed h.idxInTable e
    exact { h with
      bufCanonical := hb.canonical
      bufInRange := hb.inRange
      bufEncoded := hb.encoded
      filledBelowIdx := nofun
      wholeInTransmitting := fun _ k hk => Memory.isSome_read?_writeLed (h.filledBelowIdx hs) e k (by rw [hi]; exact hk) }
  | complete hs hd =>
    exact { h with dlyBounded := dlyLoad_lt s, filledBelowIdx := nofun, wholeInTransmitting := nofun }
  | timeOut hs hd hc => exact { h with filledBelowIdx := nofun, wholeInTransmitting := nofun }
  | endDelay hs hd => exact { h with filledBelowIdx := nofun, wholeInTransmitting := nofun }
  | waitBounded hs hd hc | waitUnbounded hs hd hc => exact { h with }

/-! ### The whole edge -/

/-- The invariant reads these fields only, and of the table its length. -/
theorem State.Inv.of_agree {s t : State} (h : s.Inv) (hparams : t.params = s.params)
    (htable : t.table.length = s.table.length) (hfsm : t.fsm = s.fsm) (hdly : t.dly = s.dly) (hidx : t.idx = s.idx)
    (hbuf : t.buf = s.buf) (hframes : t.world.frames = s.world.frames) : t.Inv where
  tableLength := by rw [htable, hparams]; exact h.tableLength
  idxInTable := by rw [hidx, hparams]; exact h.idxInTable
  dlyBounded := by rw [hdly, hparams]; exact h.dlyBounded
  bufCanonical := hbuf ▸ h.bufCanonical
  bufInRange := by rw [hbuf, hparams]; exact h.bufInRange
  bufEncoded := hbuf ▸ h.bufEncoded
  filledBelowIdx := by rw [hfsm, hidx, hbuf]; exact h.filledBelowIdx
  wholeInTransmitting := by rw [hfsm, hparams, hbuf]; exact h.wholeInTransmitting
  framesEncoded := by rw [hframes, hparams]; exact h.framesEncoded

/-- The two halves of an edge put together. In `IDLE` and `FAULT` the state machine's is empty; elsewhere the host's leaves
all that the state machine's starts from. -/
theorem State.Inv.of_halves {s t : State} {done : Bool} {u : FsmUpdate} (h : s.Inv) (he : HostEffect s t)
    (hu : fsmStep s done = .ok u) : (t.applyFsm u).Inv := by
  by_cases hs : s.fsm = .idle ∨ s.fsm = .fault
  · obtain rfl : {} = u := Except.ok.inj ((fsmStep_of_rest hs done).symm.trans hu)
    rw [State.applyFsm_none]
    exact h.of_hostEffect he
  · obtain ⟨hi, hf⟩ := not_or.1 hs
    refine (h.of_fsmEffect (fsmEffect_of_fsmStep hu)).of_agree he.params_eq
      ((he.table_length h.tableLength).trans h.tableLength.symm) ?_ ?_ ?_ ?_ he.frames_eq
    · simp [he.fsm_eq hi hf]
    · simp [he.dly_eq hi hf]
    · simp [he.idx_eq]
    · simp [he.buf_eq]

theorem State.inv_beginPeriod {s : State} (h : s.Inv) (p : Period) : (beginPeriod s p).Inv := { h with }

/-- Settles O42: each of the four forms of a step keeps it. -/
theorem invariantKeptByStep : Obligations.InvariantKeptByStep := by
  intro s s' h hstep
  have hb := State.inv_beginPeriod h (currentPeriod s)
  rcases step_cases hstep with ⟨-, rfl⟩ | ⟨-, -, -, -, rfl⟩ | ⟨-, -, -, rfl⟩ | ⟨-, -, -, t, u, ht, hu, rfl⟩
  · exact hb.withWorld hb.framesEncoded
  · exact (State.inv_resetBlock hb.buf_encoded hb.framesEncoded).withWorld (hb.encodedFrame_endWorld (p := currentPeriod s) rfl)
  · exact (State.inv_resetBlock (s := { s with buf := [] }) (Memory.encoded_nil s.params) hb.framesEncoded).withWorld
      hb.framesEncoded
  · have he := hostHalf_effect ht
    refine (hb.of_halves he hu).withWorld ?_
    rw [State.applyFsm_params, he.params_eq]
    exact hb.encodedFrame_endWorld he.frames_eq

end Sys2Proof.Machine
end

section
/-! PROOFS. The register window: which accesses decode, and by which code (R75, R100, R105). -/

namespace Sys2Proof

theorem BusAccess.flaw_eq_none_iff (a : BusAccess) :
    a.flaw = none ↔ a.width = 32 ∧ a.beats = 1 ∧ a.offset < 32 ∧ a.offset % 4 = 0 := by
  rw [BusAccess.flaw]
  split
  · exact iff_of_false nofun (by omega)
  · split
    · exact iff_of_false nofun (by omega)
    · split
      · exact iff_of_false nofun (by omega)
      · split
        · exact iff_of_false nofun (by omega)
        · exact iff_of_true rfl (by omega)

theorem decodeAccess_of_conforming {a : BusAccess} (h : a.flaw = none) :
    decodeAccess a = .ok (decodeBtc a.code a.wdata) := by
  rw [decodeAccess, h]

theorem decodeAccess_of_flaw {a : BusAccess} {f : AccessFlaw} (h : a.flaw = some f) : decodeAccess a = .error f := by
  rw [decodeAccess, h]

theorem decodes_iff_conforming (a : BusAccess) : (∃ i, decodeAccess a = .ok i) ↔ a.flaw = none := by
  refine ⟨fun ⟨i, hi⟩ => ?_, fun h => ⟨_, decodeAccess_of_conforming h⟩⟩
  cases hf : a.flaw with
  | none => rfl
  | some f => cases (decodeAccess_of_flaw hf).symm.trans hi

theorem flaw_access_btc (code : BitVec 4) (w : Word) : (Encoded.btc code w).access.flaw = none := by
  refine (BusAccess.flaw_eq_none_iff _).2 ⟨rfl, rfl, ?_, Nat.mul_mod_right ..⟩
  have := (code.extractLsb' 0 3).isLt
  simp only [Encoded.access]
  omega

/-- `WE` and `A[2:0]` as the access carries them are the code's own bits (R100). -/
theorem code_access_btc (code : BitVec 4) (w : Word) : (Encoded.btc code w).access.code = code := by
  have hcodes : ∀ c : BitVec 4, (Encoded.btc c 0#32).access.code = c := by decide
  exact hcodes code

theorem decodeAccess_access_btc (code : BitVec 4) (w : Word) :
    decodeAccess (Encoded.btc code w).access = .ok (decodeBtc code w) := by
  rw [decodeAccess_of_conforming (flaw_access_btc code w), code_access_btc]
  rfl

/-- Settles O6: what decodes is what has no flaw, and the access of a code has none and carries that code. -/
theorem conformingAccessesDecode : Obligations.ConformingAccessesDecode :=
  ⟨fun a => (decodes_iff_conforming a).trans a.flaw_eq_none_iff, decodeAccess_access_btc⟩

end Sys2Proof
end

section
/-! PROOFS. The lane's port on `buf` (R72, R79). -/

namespace Sys2Proof.Machine

theorem laneByte_of_read? {s : State} {k : Nat} {v : Byte} (h : s.buf.read? k = some v) : laneByte s k = v := by
  rw [laneByte, h, Option.getD_some]

theorem laneRead_inside (s : State) {k : Nat} (h : k < s.params.bufLen) :
    laneRead s (s.params.bufBase.toNat + k) = some (laneByte s k) := by
  rw [laneRead, if_pos ⟨Nat.le_add_right .., Nat.add_lt_add_left h _⟩, Nat.add_sub_cancel_left]

theorem laneRead_eq_none_iff (s : State) (addr : Nat) :
    laneRead s addr = none ↔ addr < s.params.bufBase.toNat ∨ s.params.bufBase.toNat + s.params.bufLen ≤ addr := by
  simp only [laneRead, ite_eq_right_iff, reduceCtorEq, imp_false]
  omega

/-- Settles O36: inside the buffer the port shows the byte, and the two ranges outside it are exactly where it shows none. -/
theorem laneReadsBuffer : Obligations.LaneReadsBuffer := by
  refine fun s k => ⟨fun v hk hv => ?_, fun hk => ?_, fun hk => ?_⟩
  · rw [laneRead_inside s hk, laneByte_of_read? hv]
  · exact (laneRead_eq_none_iff ..).2 (.inr (Nat.add_le_add_left hk _))
  · exact (laneRead_eq_none_iff ..).2 (.inl hk)

end Sys2Proof.Machine
end

section
/-! PROOFS. How a step can end: it goes on, or it is refused for one of two reasons (R31, R75, R300, U7). -/

namespace Sys2Proof.Machine

theorem fsmStep_of_filling {s : State} {e : Color} (h : s.fsm = .filling) (he : s.table[s.idx.toNat]? = some e)
    (done : Bool) : fsmStep s done = .ok (fsmFillLed s e) := by
  simp only [fsmStep, h, he]

theorem fsmStep_of_preDelay {s : State} (h : s.fsm = .preDelay) (done : Bool) :
    fsmStep s done = .ok (fsmPreDelay s done) := by
  simp only [fsmStep, h]

theorem fsmStep_of_postDelay {s : State} (h : s.fsm = .postDelay) (done : Bool) :
    fsmStep s done = .ok (fsmPostDelay s done) := by
  simp only [fsmStep, h]

/-- `idx` never leaves the table, so the state machine always answers (R31). -/
theorem State.Inv.fsmStep_ok {s : State} (h : s.Inv) (done : Bool) : ∃ u, fsmStep s done = .ok u := by
  cases hf : s.fsm with
  | filling =>
    have hidx : s.idx.toNat < s.table.length := h.tableLength ▸ h.idxInTable
    exact ⟨_, fsmStep_of_filling hf (List.getElem?_eq_getElem hidx) done⟩
  | idle => exact ⟨_, fsmStep_of_rest (.inl hf) done⟩
  | fault => exact ⟨_, fsmStep_of_rest (.inr hf) done⟩
  | transmitting => exact ⟨_, fsmStep_of_transmitting hf done⟩
  | preDelay => exact ⟨_, fsmStep_of_preDelay hf done⟩
  | postDelay => exact ⟨_, fsmStep_of_postDelay hf done⟩

theorem step_of_no_reset_edge {s : State} (hu : s.world.up = false) (hp : (currentPeriod s).powerLoss = false)
    (hr : (currentPeriod s).rst = false) : step s = .refused .noResetEdge := by
  simp [step, hu, hp, hr]

theorem hostHalf_of_flaw {s : State} {p : Period} {a : BusAccess} {f : AccessFlaw} (ha : presented s p = some a)
    (hf : a.flaw = some f) : hostHalf s p = .refused (.nonConforming f) := by
  simp only [hostHalf, ha, decodeAccess_of_flaw hf]

/-- Every edge of a block that has been reset, a reset edge too, refuses an access that is not conforming (log 14). -/
theorem step_of_flaw {s : State} {a : BusAccess} {f : AccessFlaw} (hu : s.world.up = true)
    (hp : (currentPeriod s).powerLoss = false) (ha : presented s (currentPeriod s) = some a) (hf : a.flaw = some f) :
    step s = .refused (.nonConforming f) := by
  cases hr : (currentPeriod s).rst with
  | true => exact step_of_reset_flaw hu hp hr (by simp [presentedFlaw, ha, hf])
  | false =>
    have hhost := hostHalf_of_flaw (s := beginPeriod s (currentPeriod s)) ha hf
    simp [step, hu, hp, hr, runEdge, hhost]

/-- With power on and an access that is conforming, or none, a block that has been reset goes on (R221, R300). -/
theorem State.Inv.step_next {s : State} (h : s.Inv) (hu : s.world.up = true)
    (hp : (currentPeriod s).powerLoss = false)
    (hc : ∀ a, presented s (currentPeriod s) = some a → a.flaw = none) : ∃ s', step s = .next s' := by
  cases hr : (currentPeriod s).rst with
  | true => exact ⟨_, step_of_reset hu hp hr (Option.bind_eq_none_iff.2 hc)⟩
  | false =>
    have hplain : PlainEdge s := ⟨hu, hp, hr, hc⟩
    obtain ⟨u, hfsm⟩ := (State.inv_beginPeriod h (currentPeriod s)).fsmStep_ok (txDone s (currentPeriod s))
    obtain ⟨t, -, hstep⟩ := hplain.step_next hfsm
    exact ⟨_, hstep⟩

/-- Everything a step from a state of the invariant can answer. -/
theorem State.Inv.step_answers {s : State} (h : s.Inv) :
    (∃ s', step s = .next s')
    ∨ (step s = .refused .noResetEdge ∧ s.world.up = false ∧ (currentPeriod s).rst = false)
    ∨ ∃ a f, step s = .refused (.nonConforming f) ∧ presented s (currentPeriod s) = some a ∧ a.flaw = some f := by
  cases hp : (currentPeriod s).powerLoss with
  | true => exact .inl ⟨_, step_of_powerLoss hp⟩
  | false =>
    cases hu : s.world.up with
    | false =>
      cases hr : (currentPeriod s).rst with
      | true => exact .inl ⟨_, step_of_first_reset hu hp hr⟩
      | false => exact .inr (.inl ⟨step_of_no_reset_edge hu hp hr, rfl, rfl⟩)
    | true =>
      cases ha : presented s (currentPeriod s) with
      | none => exact .inl (h.step_next hu hp fun _ hb => nomatch ha.symm.trans hb)
      | some a =>
        cases hf : a.flaw with
        | none => exact .inl (h.step_next hu hp fun b hb => Option.some.inj (ha.symm.trans hb) ▸ hf)
        | some f => exact .inr (.inr ⟨a, f, step_of_flaw hu hp ha hf, rfl, hf⟩)

/-- Settles O40: a fault and every other refusal are none of the answers of `State.Inv.step_answers`. -/
theorem stopsOnlyAsSaid : Obligations.StopsOnlyAsSaid := by
  intro s h
  refine ⟨fun f hs => ?_, fun a f hu hp ha hf => step_of_flaw hu hp ha hf, fun r hs => ?_⟩
  · rcases h.step_answers with ⟨s', h'⟩ | ⟨h', -⟩ | ⟨a, f', h', -⟩ <;> cases h'.symm.trans hs
  · rcases h.step_answers with ⟨s', h'⟩ | ⟨h', hu, hr⟩ | ⟨a, f, h', ha, hf⟩ <;> cases h'.symm.trans hs
    · exact .inl ⟨rfl, hu, hr⟩
    · exact .inr ⟨a, f, rfl, ha, hf⟩

end Sys2Proof.Machine
end

section
/-! PROOFS. A command at the edge that encodes an LED (R80 item 3, R197, R224). -/

namespace Sys2Proof.Machine

/-! ### A command written to `CMD` -/

theorem decodeAccess_writeOf_cmd (w : Word) : decodeAccess (writeOf .cmd w) = .ok (.wrCmd w) :=
  decodeAccess_access_btc 0b1000#4 w

theorem hostHalf_of_write_cmd {s : State} {p : Period} {w : Word} (h : presented s p = some (writeOf .cmd w)) :
    hostHalf s p = execWrCmd w s := by
  simp only [hostHalf, h, decodeAccess_writeOf_cmd]
  rfl

theorem opField_append (x : BitVec 16) (index : Index) : opField (x ++ index) = x.extractLsb' 12 4 := by
  rw [opField, BitVec.extractLsb'_append_eq_of_le (by decide)]

theorem rsvdField_append (x : BitVec 16) (index : Index) : rsvdField (x ++ index) = x.extractLsb' 0 12 := by
  rw [rsvdField, BitVec.extractLsb'_append_eq_of_le (by decide)]

theorem indexField_append (x : BitVec 16) (index : Index) : indexField (x ++ index) = index := by
  rw [indexField, BitVec.extractLsb'_append_eq_right]

/-- Whatever the index, the fields that R194 checks are those of `SET`. -/
theorem execWrCmd_set (index : Index) (s : State) : execWrCmd (0x1000#16 ++ index) s = execCmdSet index s := by
  have hop : opField (0x1000#16 ++ index) = 0x1#4 := opField_append ..
  have hrsvd : rsvdField (0x1000#16 ++ index) = 0#12 := rsvdField_append ..
  have hlegal : legalCommand (0x1000#16 ++ index) = true := by simp [legalCommand, hop, hrsvd]
  simp [execWrCmd, hlegal, hop, indexField_append]

theorem execWrCmd_fill (s : State) : execWrCmd 0x20000000#32 s = execCmdFill s := rfl

/-! ### The edge -/

theorem fsmFillLed_bufWrites (s : State) (e : Color) :
    (fsmFillLed s e).bufWrites = bytesAt (12 * s.idx.toNat) (encLed e) := by
  simp only [fsmFillLed]
  split <;> rfl

theorem Memory.read?_writeLed (m : Memory) (i : Nat) (e : Color) {j : Nat} (hj : j < 12) :
    (m.writeAll (bytesAt (12 * i) (encLed e))).read? (12 * i + j) = (encLed e)[j]? := by
  rw [Memory.read?_writeAll_bytesAt, if_pos (by rw [length_encLed]; omega), Nat.add_sub_cancel_left]

/-- The edge that encodes the entry `e` keeps the table as the host's half `t` leaves it, and writes the bytes of `e`,
whatever the host does (R80 item 3, R224). -/
theorem PlainEdge.step_filling {s t : State} {e : Color} (h : PlainEdge s) (hf : s.fsm = .filling)
    (he : s.table[s.idx.toNat]? = some e)
    (ht : hostHalf (beginPeriod s (currentPeriod s)) (currentPeriod s) = .next t) :
    ∃ s', step s = .next s' ∧ s'.table = t.table
      ∧ ∀ m < 12, s'.buf.read? (12 * s.idx.toNat + m) = (encLed e)[m]? := by
  have hfsm := fsmStep_of_filling (s := beginPeriod s (currentPeriod s)) hf he (txDone s (currentPeriod s))
  refine ⟨_, step_of_halves h.up h.powered h.noReset ht hfsm, rfl, fun m hm => ?_⟩
  rw [State.applyFsm_buf, fsmFillLed_bufWrites, beginPeriod_idx, Memory.read?_writeLed _ _ _ hm]

/-- Settles O55: `SET` and `FILL` are the host's half of `PlainEdge.step_filling`. -/
theorem fillingReadsPreEdgeEntry : Obligations.FillingReadsPreEdgeEntry := by
  refine fun s e hplain hinv hf he => ⟨fun index hw hi => ?_, fun hw => ?_⟩
  · have ht := (hostHalf_of_write_cmd (s := beginPeriod s (currentPeriod s)) hw).trans
      ((execWrCmd_set index _).trans (execCmdSet_of_lt hi))
    obtain ⟨s', hstep, htable, hbuf⟩ := hplain.step_filling hf he ht
    refine ⟨s', hstep, ?_, hbuf⟩
    rw [htable]
    exact List.getElem?_set_self (hinv.tableLength ▸ hi)
  · have ht := (hostHalf_of_write_cmd (s := beginPeriod s (currentPeriod s)) hw).trans (execWrCmd_fill _)
    obtain ⟨s', hstep, htable, hbuf⟩ := hplain.step_filling hf he ht
    refine ⟨s', hstep, fun i hi => ?_, hbuf⟩
    rw [htable]
    exact List.getElem?_replicate_of_lt hi

end Sys2Proof.Machine
end

section
/-! PROOFS. Command words: cut into fields, under the masks of the opcode table, and legal by either reading (R101, R104,
R194). -/

namespace Sys2Proof.Machine

/-! ### Fields and masks -/

theorem opField_append_lowField (w : Word) : opField w ++ lowField w = w :=
  (BitVec.extractLsb'_append_extractLsb'_eq_extractLsb' (x := w) rfl).trans BitVec.extractLsb'_eq_self

/-- A command word is its three fields side by side (R101). -/
theorem fields_append (w : Word) : opField w ++ rsvdField w ++ indexField w = w := by
  have hhigh : opField w ++ rsvdField w = w.extractLsb' 16 16 :=
    BitVec.extractLsb'_append_extractLsb'_eq_extractLsb' rfl
  rw [hhigh]
  exact (BitVec.extractLsb'_append_extractLsb'_eq_extractLsb' rfl).trans BitVec.extractLsb'_eq_self

theorem opField_and (w m : Word) : opField (w &&& m) = opField w &&& opField m := BitVec.extractLsb'_and

theorem rsvdField_and (w m : Word) : rsvdField (w &&& m) = rsvdField w &&& rsvdField m := BitVec.extractLsb'_and

theorem and_fullMask (w : Word) : w &&& 0xFFFFFFFF#32 = w := BitVec.and_allOnes

/-- Rows whose patterns differ in a bit that both masks keep have no word in common. -/
theorem not_hit_of_hit {w m p m' p' : Word} (h : w &&& m = p) (hne : p &&& m' ≠ p' &&& m) : ¬ w &&& m' = p' := by
  rintro rfl
  subst h
  exact hne (by rw [BitVec.and_assoc, BitVec.and_comm m, ← BitVec.and_assoc])

/-- The mask of `SET`'s row keeps the fields `OP` and `RSVD` (R104). -/
theorem set_hit_iff (w : Word) :
    w &&& 0xFFFF0000#32 = 0x10000000#32 ↔ opField w = 0x1#4 ∧ rsvdField w = 0#12 := by
  constructor
  · intro h
    have hop : opField (w &&& 0xFFFF0000#32) = opField w := (opField_and ..).trans BitVec.and_allOnes
    have hrsvd : rsvdField (w &&& 0xFFFF0000#32) = rsvdField w := (rsvdField_and ..).trans BitVec.and_allOnes
    rw [← hop, ← hrsvd, h]
    exact ⟨rfl, rfl⟩
  · rintro ⟨hop, hrsvd⟩
    rw [← fields_append w, hop, hrsvd]
    exact Laws.set_word_masked _

/-- The mask of the other rows keeps the whole word: `OP`, and 28 bits that must be 0 (R104, R105). -/
theorem eq_op_iff (w : Word) (op : BitVec 4) : w = op ++ 0#28 ↔ opField w = op ∧ lowField w = 0#28 := by
  constructor
  · rintro rfl
    exact ⟨BitVec.extractLsb'_append_eq_left, BitVec.extractLsb'_append_eq_right⟩
  · rintro ⟨rfl, hlow⟩
    rw [← hlow, opField_append_lowField]

/-! ### Legality -/

theorem legalCommand_iff_hit (w : Word) : legalCommand w = true ↔ ∃ r ∈ commandRows, r.hits w = true := by
  have hlegal : legalCommand w = true ↔ w &&& 0xFFFF0000#32 = 0x10000000#32 ∨ w = 0x0#4 ++ 0#28 ∨ w = 0x2#4 ++ 0#28
      ∨ w = 0x3#4 ++ 0#28 ∨ w = 0x4#4 ++ 0#28 ∨ w = 0x5#4 ++ 0#28 := by
    simp only [legalCommand, Bool.or_eq_true, Bool.and_eq_true, beq_iff_eq, or_and_right, set_hit_iff, eq_op_iff,
      or_assoc]
  rw [hlegal, or_left_comm]
  simp only [commandRows, List.mem_cons, List.not_mem_nil, or_false, exists_eq_or_imp, exists_eq_left, Row.hits,
    and_fullMask, beq_iff_eq, BitVec.reduceAppend]

theorem commandRows_disjoint (w : Word) : commandRows.Pairwise fun r t => r.hits w = true → ¬ t.hits w = true := by
  have hdiffer : commandRows.Pairwise fun r t => r.pattern &&& t.mask ≠ t.pattern &&& r.mask := by decide
  refine hdiffer.imp fun hne hr ht => ?_
  rw [Row.hits, beq_iff_eq] at hr ht
  exact not_hit_of_hit hr hne ht

theorem length_filter_le_one {α : Type} {l : List α} {q : α → Bool}
    (h : l.Pairwise fun a b => q a = true → ¬ q b = true) : (l.filter q).length ≤ 1 := by
  have hnone : (l.filter q).Pairwise fun _ _ => False := List.pairwise_filter.2 h
  match l.filter q, hnone with
  | [], _ => exact Nat.zero_le 1
  | [_], _ => exact Nat.le_refl 1
  | _ :: b :: _, hnone => exact (List.rel_of_pairwise_cons hnone List.mem_cons_self).elim

/-- Settles O4: no word hits two rows, so that it hits exactly one is that it hits some one. -/
theorem commandWordLegality : Obligations.CommandWordLegality := by
  intro w
  have hle := length_filter_le_one (commandRows_disjoint w)
  calc legalCommand w = true
    _ ↔ ∃ r ∈ commandRows, r.hits w = true := legalCommand_iff_hit w
    _ ↔ 0 < (commandRows.filter fun r => r.hits w).length := by
      simp only [List.length_pos_iff_exists_mem, List.mem_filter]
    _ ↔ (commandRows.filter fun r => r.hits w).length = 1 := by omega

end Sys2Proof.Machine
end

section
/-! PROOFS. The decoder and the encoder are inverse to each other (R101, R103 to R105). -/

namespace Sys2Proof

open Machine

/-! ### Bus transaction codes (R103) -/

/-- What the decoder reads is well formed and gives back the code, with its write data; a read carries none. The last branch
is that of the codes 14 and 15. -/
theorem reencode_decodeBtc (code : BitVec 4) (w : Word) :
    (decodeBtc code w).wellFormed = true
      ∧ encode (decodeBtc code w) = .btc code (if code.getLsbD 3 then w else 0#32) := by
  fun_cases decodeBtc code w
  case case7 hcode | case8 hcode =>
    subst hcode
    rename BusAddr => a
    subst a
    exact ⟨rfl, rfl⟩
  case case15 =>
    obtain hcode | hcode : code = 0b1110#4 ∨ code = 0b1111#4 := by bv_omega
    all_goals
      subst hcode
      rename BusAddr => a
      subst a
      exact ⟨rfl, rfl⟩
  all_goals
    rename_i hcode
    subst hcode
    exact ⟨rfl, rfl⟩

/-! ### Command words (R104, R105): a word that hits a row hits none before it -/

theorem decodeCommand_of_set_hit {w : Word} (h : w &&& 0xFFFF0000#32 = 0x10000000#32) :
    decodeCommand w = .ok (.cmdSet (indexField w)) := by
  simp only [decodeCommand, not_hit_of_hit h, h, ne_eq, BitVec.reduceAnd, BitVec.reduceEq, not_false_eq_true]
  rfl

theorem decodeCommand_of_op67_hit {w : Word} (h : w &&& 0xE0000000#32 = 0x60000000#32) :
    decodeCommand w = .ok (.illegalOp67 w) := by
  simp [decodeCommand, not_hit_of_hit h, h]

theorem decodeCommand_of_op8F_hit {w : Word} (h : w &&& 0x80000000#32 = 0x80000000#32) :
    decodeCommand w = .ok (.illegalOp8F w) := by
  simp [decodeCommand, not_hit_of_hit h, h]

/-- What the decoder reads is well formed and gives back the word: a row whose mask is full is one word, `SET`'s gives its
fields, and the illegal-opcode rows hold the word itself. -/
theorem reencode_decodeCommand {w : Word} {i : Instr} :
    decodeCommand w = .ok i → i.wellFormed = true ∧ encode i = .cmdw w := by
  fun_cases decodeCommand w
  case case1 hw | case3 hw | case4 hw | case5 hw | case6 hw =>
    rintro ⟨⟩
    exact ⟨rfl, congrArg Encoded.cmdw (hw.symm.trans (and_fullMask w))⟩
  case case2 hw =>
    rintro ⟨⟩
    obtain ⟨hop, hrsvd⟩ := (set_hit_iff w).1 hw
    have hword : 0x1#4 ++ 0#12 ++ indexField w = w := by rw [← hop, ← hrsvd, fields_append]
    exact ⟨rfl, congrArg Encoded.cmdw hword⟩
  case case7 hw | case8 hw =>
    rintro ⟨⟩
    exact ⟨beq_iff_eq.2 hw, rfl⟩
  case case9 => nofun

/-! ### The two directions -/

/-- Settles O2, row by row. -/
theorem decodeEncodeRoundTrip : Obligations.DecodeEncodeRoundTrip := by
  intro i hwf
  cases i with
  | rdRsvd a | wrRsvd a w =>
    rw [Instr.wellFormed, Bool.or_eq_true, beq_iff_eq, beq_iff_eq] at hwf
    rcases hwf with rfl | rfl <;> rfl
  | cmdSet index =>
    rw [encode, decode, decodeCommand_of_set_hit (Laws.set_word_masked index), indexField_append]
  | illegalOp67 w => exact decodeCommand_of_op67_hit (beq_iff_eq.1 hwf)
  | illegalOp8F w => exact decodeCommand_of_op8F_hit (beq_iff_eq.1 hwf)
  | _ => rfl

/-- Settles O3: a bus transaction code by `reencode_decodeBtc`, a command word by `reencode_decodeCommand`. -/
theorem decodedWordsReencode : Obligations.DecodedWordsReencode := by
  refine ⟨fun code w => ?_, fun w i => reencode_decodeCommand⟩
  obtain ⟨hwf, hcode⟩ := reencode_decodeBtc code w
  refine ⟨hwf, ?_, fun hwrite => ?_⟩
  · rw [hcode, Encoded.tableWord]
  · rw [hcode, if_pos hwrite]

/-- Settles O1 by evaluation: each word falls through the rows before its own. -/
theorem tableWordsDecode : Obligations.TableWordsDecode := ⟨rfl, rfl, rfl, rfl, rfl, rfl, rfl, rfl, rfl, rfl⟩

end Sys2Proof
end

section
/-! PROOFS. What an illegal command does (R105, R194). -/

namespace Sys2Proof.Machine

theorem illegalCommand_eq (s : State) : illegalCommand s = { s with err := { s.err with ill := true } } := by
  simp [illegalCommand, State.request, raise, ErrFlags.update]

/-- Settles O17: the meaning of either row is `illegalCommand`. -/
theorem illegalRowsRaise : Obligations.IllegalRowsRaise := fun _ s =>
  ⟨congrArg _ (illegalCommand_eq s), congrArg _ (illegalCommand_eq s)⟩

end Sys2Proof.Machine
end

section
/-! PROOFS. The lines of a host program and the expansions of the pseudo-instructions (R107, R108, R180). -/

namespace Sys2Proof.Machine

/-! ### The line the host is at -/

section
variable {s : State} {rest : List HostLine} (p : Period)

theorem currentLine_of_drop {l : HostLine} (h : dropEmptyIdle s.world.prog = l :: rest) : currentLine s = some l := by
  rw [currentLine, h, List.head?_cons]

theorem presented_progAfter_of_bus {a : BusAccess} (h : dropEmptyIdle s.world.prog = .bus a :: rest) :
    presented s p = some a ∧ progAfter s p = rest := by
  simp only [presented, progAfter, currentLine_of_drop h, h, and_self]

theorem presented_progAfter_of_rd {r : HostReg} {name : String} (h : dropEmptyIdle s.world.prog = .rd r name :: rest) :
    presented s p = some (readOf r) ∧ progAfter s p = rest
      ∧ varsAfter s = (name, readValue s r.addr) :: s.world.vars := by
  simp only [presented, progAfter, varsAfter, currentLine_of_drop h, h, and_self]

theorem presented_progAfter_of_poll_idling {r : HostReg} {mask val : Word}
    (h : dropEmptyIdle s.world.prog = .poll r mask val :: rest) (hp : pollIdles s p = true) :
    presented s p = none ∧ progAfter s p = .poll r mask val :: rest := by
  simp [presented, progAfter, currentLine_of_drop h, h, hp]

theorem presented_progAfter_of_poll_reading {r : HostReg} {mask val : Word}
    (h : dropEmptyIdle s.world.prog = .poll r mask val :: rest) (hp : pollIdles s p = false) :
    presented s p = some (readOf r) ∧
      progAfter s p = if readValue s r.addr &&& mask = val then rest else .poll r mask val :: rest := by
  simp [presented, progAfter, currentLine_of_drop h, h, hp]

theorem presented_progAfter_of_idleFor {n : Nat} (h : dropEmptyIdle s.world.prog = .idleFor (n + 1) :: rest) :
    presented s p = none ∧ progAfter s p = if n = 0 then rest else .idleFor n :: rest := by
  simp [presented, progAfter, currentLine_of_drop h, h]

theorem presented_progAfter_of_end (h : dropEmptyIdle s.world.prog = []) : presented s p = none ∧ progAfter s p = [] := by
  simp [presented, progAfter, currentLine, h]

/-- `presented` and `progAfter` see of the program what is left after the empty lines. -/
theorem presented_progAfter_of_same_drop {prog : List HostLine} (h : dropEmptyIdle s.world.prog = dropEmptyIdle prog) :
    presented s p = presented { s with world := { s.world with prog := prog } } p
      ∧ progAfter s p = progAfter { s with world := { s.world with prog := prog } } p := by
  simp only [presented, progAfter, currentLine, h]
  exact ⟨rfl, rfl⟩

end

/-- Settles O21: only an `IDLEFOR 0` is left out of the program; every other line is the line the host is at. -/
theorem hostLinesRun : Obligations.HostLinesRun := by
  intro s p rest
  refine ⟨fun a h => ?_, fun r name h => ?_, fun r mask val h => ⟨fun hp => ?_, fun hp => ?_⟩, fun n h => ?_,
    fun h => ?_, fun h => ?_⟩
  · exact presented_progAfter_of_bus p (by rw [h]; rfl)
  · exact presented_progAfter_of_rd p (by rw [h]; rfl)
  · rw [h]; exact presented_progAfter_of_poll_idling p (by rw [h]; rfl) hp
  · rw [h]; exact presented_progAfter_of_poll_reading p (by rw [h]; rfl) hp
  · exact presented_progAfter_of_idleFor p (by rw [h]; rfl)
  · exact presented_progAfter_of_same_drop p (by rw [h]; rfl)
  · exact presented_progAfter_of_end p (by rw [h]; rfl)

/-! ### Pseudo-instructions -/

theorem toNat_append_byte {n : Nat} (x : BitVec n) (y : Byte) : (x ++ y).toNat = x.toNat * 256 + y.toNat := by
  rw [BitVec.toNat_append, ← Nat.shiftLeft_add_eq_or_of_lt y.isLt, Nat.shiftLeft_eq]

/-- The color that `SETLED` and `FILLALL` write, as a number (R108). -/
theorem toNat_rgb_word (r g b : Byte) :
    ((rgb r g b).zeroExtend 32).toNat = r.toNat * 65536 + g.toNat * 256 + b.toNat := by
  rw [BitVec.toNat_setWidth_of_le (by decide), rgb, toNat_append_byte, toNat_append_byte]
  omega

/-- The word that `SETLED` and `SETI` write to `CMD`, as a number (R108). -/
theorem toNat_set_word (i : Index) : (0x10000000#32 + i.zeroExtend 32).toNat = 0x10000000 + i.toNat := by
  bv_omega

/-- Settles O58: the lists are R108's own, and the operands in them are read as numbers. -/
theorem pseudoExpansions : Obligations.PseudoExpansions :=
  ⟨rfl, fun i r g b => ⟨_, _, rfl, toNat_rgb_word r g b, toNat_set_word i⟩, fun i => ⟨_, rfl, toNat_set_word i⟩,
    fun r g b => ⟨_, rfl, toNat_rgb_word r g b⟩, rfl, rfl, rfl, rfl, fun _ => rfl⟩

end Sys2Proof.Machine
end

section
/-! PROOFS. The encoder byte by byte: its closed form, its inverse, its layout in a frame and its bits on the wire
(R140 to R148). -/

namespace Sys2Proof.Machine

/-! ### One encoded byte -/

/-- The byte that two protocol bits make, in R142's closed form. -/
theorem encBit_append_encBit (a b : Bool) : encBit a ++ encBit b =
    0x88#8 ||| ((BitVec.ofBool a).zeroExtend 8 <<< 6) ||| ((BitVec.ofBool b).zeroExtend 8 <<< 2) := by
  cases a <;> cases b <;> rfl

theorem isEncodedByte_iff (b : Byte) :
    isEncodedByte b = true ↔ b = 0x88#8 ∨ b = 0x8C#8 ∨ b = 0xC8#8 ∨ b = 0xCC#8 := by
  simp only [isEncodedByte, Bool.or_eq_true, beq_iff_eq, or_assoc]

/-- Settles O43: byte `j` is the pair of protocol bits `7 - 2j` and `6 - 2j`. -/
theorem encByteClosedForm : Obligations.EncByteClosedForm := by
  intro v
  constructor
  · intro j
    rw [encByte_eq_pairs, ← encBit_append_encBit]
    match j with
    | 0 | 1 | 2 | 3 => rfl
  · exact fun b hb => (isEncodedByte_iff b).1 (isEncodedByte_of_mem_encByte hb)

/-! ### The layout of a frame -/

@[simp] theorem encFrame_nil : encFrame [] = [] := rfl

@[simp] theorem encFrame_cons (e : Color) (t : List Color) : encFrame (e :: t) = encLed e ++ encFrame t := rfl

@[simp] theorem length_encFrame (t : List Color) : (encFrame t).length = 12 * t.length := by
  induction t with
  | nil => rfl
  | cons e t ih =>
    rw [encFrame_cons, List.length_append, length_encLed, ih, List.length_cons]
    omega

/-- LED `i` of a frame is the code of entry `i` (R144). -/
theorem getElem?_encFrame {t : List Color} {i : Nat} {e : Color} (h : t[i]? = some e) {k : Nat} (hk : k < 12) :
    (encFrame t)[12 * i + k]? = (encLed e)[k]? := by
  induction t generalizing i with
  | nil => cases h
  | cons e' t ih =>
    cases i with
    | zero =>
      obtain rfl : e' = e := by simpa using h
      rw [encFrame_cons, List.getElem?_append_left (by simp only [length_encLed]; omega)]
      simp
    | succ i =>
      rw [encFrame_cons, List.getElem?_append_right (by simp only [length_encLed]; omega), length_encLed,
        show 12 * (i + 1) + k - 12 = 12 * i + k by omega]
      exact ih (by simpa using h)

theorem getElem?_encLed (e : Color) (c : Fin 3) (j : Fin 4) :
    (encLed e)[4 * c.val + j.val]? = (encByte (channel c e))[j.val]? := by
  match c, j with
  | 0, 0 | 0, 1 | 0, 2 | 0, 3 | 1, 0 | 1, 1 | 1, 2 | 1, 3 | 2, 0 | 2, 1 | 2, 2 | 2, 3 => rfl

/-- Settles O45: the length and the LED by induction on the table, the channel by R143. -/
theorem frameLayout : Obligations.FrameLayout := fun t =>
  ⟨length_encFrame t, fun i e h c j => by
    rw [Nat.add_assoc, getElem?_encFrame h (by omega), getElem?_encLed]⟩

/-! ### The reference decoder -/

@[simp] theorem decNibble_encBit (p : Bool) : decNibble (encBit p) = some p := by cases p <;> rfl

theorem byteOfBits_getLsbD (v : Byte) :
    byteOfBits (v.getLsbD 7) (v.getLsbD 6) (v.getLsbD 5) (v.getLsbD 4)
      (v.getLsbD 3) (v.getLsbD 2) (v.getLsbD 1) (v.getLsbD 0) = v := by
  apply BitVec.eq_of_getLsbD_eq
  intro i hi
  match i with
  | 0 | 1 | 2 | 3 | 4 | 5 | 6 | 7 =>
    simp only [byteOfBits, BitVec.getLsbD_append, BitVec.getLsbD_ofBool]
    rfl

/-- `DecByte` gives the eight protocol bits of four encoded bytes. -/
theorem decByte_pairs (b7 b6 b5 b4 b3 b2 b1 b0 : Bool) :
    decByte (encBit b7 ++ encBit b6) (encBit b5 ++ encBit b4) (encBit b3 ++ encBit b2) (encBit b1 ++ encBit b0)
      = some (byteOfBits b7 b6 b5 b4 b3 b2 b1 b0) := by
  simp only [decByte, BitVec.extractLsb'_append_eq_left, BitVec.extractLsb'_append_eq_right, decNibble_encBit]
  rfl

theorem decByte_of_encByte_eq {v x0 x1 x2 x3 : Byte} (h : encByte v = [x0, x1, x2, x3]) :
    decByte x0 x1 x2 x3 = some v := by
  rw [encByte_eq_pairs] at h
  cases h
  rw [decByte_pairs, byteOfBits_getLsbD]

/-- The channels of a color, put together again (R40). -/
theorem rgb_channels (e : Color) : rgb (red e) (green e) (blue e) = e := by
  unfold rgb red green blue
  rw [BitVec.extractLsb'_append_extractLsb'_eq_extractLsb' (by rfl),
    BitVec.extractLsb'_append_extractLsb'_eq_extractLsb' (by rfl)]
  exact BitVec.extractLsb'_eq_self

theorem decFrame_encLed_append (e : Color) (rest : List Byte) :
    decFrame (encLed e ++ rest) = (decFrame rest).map (e :: ·) := by
  have hg := decByte_of_encByte_eq (v := green e) rfl
  have hr := decByte_of_encByte_eq (v := red e) rfl
  have hb := decByte_of_encByte_eq (v := blue e) rfl
  simp only [encLed, encByte, splitMsbFirst, List.cons_append, List.nil_append, decFrame, hg, hr, hb]
  cases decFrame rest with
  | none => rfl
  | some t => simp [rgb_channels]

/-- Settles O44: a byte by its eight protocol bits, a frame by induction on its table. -/
theorem frameDecodesBack : Obligations.FrameDecodesBack := by
  refine ⟨fun v x0 x1 x2 x3 => decByte_of_encByte_eq, fun t => ?_⟩
  induction t with
  | nil => rfl
  | cons e t ih => rw [encFrame_cons, decFrame_encLed_append, ih, Option.map_some]

/-! ### The wire -/

/-- The wire bits of one protocol bit: high, then low, for the times `pulse` gives (R140, R147). -/
def pulseBits (p : Bool) : List Bool := List.replicate (pulse p).1 true ++ List.replicate (pulse p).2 false

theorem wireByte_pair (a b : Bool) : wireByte (encBit a ++ encBit b) = pulseBits a ++ pulseBits b := by
  cases a <;> cases b <;> rfl

@[simp] theorem wire_append (xs ys : List Byte) : wire (xs ++ ys) = wire xs ++ wire ys := List.flatMap_append

@[simp] theorem length_wireByte (b : Byte) : (wireByte b).length = 8 := rfl

theorem length_wire (bytes : List Byte) : (wire bytes).length = 8 * bytes.length := by
  induction bytes with
  | nil => rfl
  | cons b bytes ih =>
    rw [wire, List.flatMap_cons, List.length_append, ← wire, ih, length_wireByte, List.length_cons]
    omega

theorem wire_encByte (v : Byte) : wire (encByte v) = (wireByte v).flatMap pulseBits := by
  rw [encByte_eq_pairs]
  simp only [wire, List.flatMap_cons, wireByte_pair, List.append_assoc]
  rfl

theorem wire_encLed (e : Color) : wire (encLed e) = (protocolBits e).flatMap pulseBits := by
  simp only [encLed, protocolBits, wire_append, wire_encByte, List.flatMap_append]

theorem wire_encFrame (t : List Color) : wire (encFrame t) = (t.flatMap protocolBits).flatMap pulseBits := by
  induction t with
  | nil => rfl
  | cons e t ih => rw [encFrame_cons, wire_append, wire_encLed, ih, List.flatMap_cons, List.flatMap_append]

/-- Settles O46: the pulses byte by byte, and 8 wire bits for each of the 12 bytes of an LED. -/
theorem wireOfFrame : Obligations.WireOfFrame := fun t =>
  ⟨wire_encFrame t, by rw [length_wire, length_encFrame]; omega⟩

end Sys2Proof.Machine
end

section
/-! PROOFS. What a read of the window returns and what a write to it changes, `CMD` apart (R181 to R193). -/

namespace Sys2Proof.Machine

/-! ### The registers as words -/

theorem colorWord_eq_append (s : State) : colorWord s = 0#8 ++ s.color := BitVec.setWidth_eq_append (by decide)

/-- The words that a 24-bit register can show are the words under its mask (R45). -/
theorem zero_append_colorField (w : Word) : 0#8 ++ colorField w = w &&& 0x00FFFFFF#32 := by
  have hsplit : w.extractLsb' 24 8 ++ colorField w = w :=
    (BitVec.extractLsb'_append_extractLsb'_eq_extractLsb' rfl).trans BitVec.extractLsb'_eq_self
  calc 0#8 ++ colorField w
    _ = (w.extractLsb' 24 8 ++ colorField w) &&& (0#8 ++ BitVec.allOnes 24) := by
      rw [BitVec.and_append, BitVec.and_zero, BitVec.and_allOnes]
    _ = w &&& 0x00FFFFFF#32 := by rw [hsplit]; rfl

theorem toNat_nledsWord (s : State) : (nledsWord s).toNat = s.params.nLeds :=
  Nat.mod_eq_of_lt (Nat.lt_of_le_of_lt s.params.nLeds_range.2 (by decide))

theorem toNat_resetTicksWord (s : State) : (resetTicksWord s).toNat = s.params.tResetTicks :=
  Nat.mod_eq_of_lt (Nat.lt_of_le_of_lt s.params.tResetTicks_range.2 (by decide))

/-- Settles O7: the values are those of the registers as words, and the two counts are in range by R6. -/
theorem readsReturnRegisters : Obligations.ReadsReturnRegisters := by
  intro s
  have hleds := toNat_nledsWord s
  have hticks := toNat_resetTicksWord s
  obtain ⟨hleds_pos, hleds_le⟩ := s.params.nLeds_range
  obtain ⟨hticks_pos, -⟩ := s.params.tResetTicks_range
  refine ⟨rfl, ?_, ⟨nledsWord s, rfl, hleds, by bv_omega, hleds ▸ hleds_le⟩,
    ⟨resetTicksWord s, rfl, hticks, by bv_omega⟩, rfl, fun _ => rfl⟩
  rw [← colorWord_eq_append]
  rfl

/-! ### `STATUS` -/

theorem getLsbD_bit32_shiftLeft (b : Bool) (n : Nat) {i : Nat} (hi : i < 32) :
    (bit32 b <<< n).getLsbD i = (decide (i = n) && b) := by
  have hbit (k : Nat) : (bit32 b).getLsbD k = (decide (k = 0) && b) := by cases b <;> simp [bit32]
  rw [BitVec.getLsbD_shiftLeft, hbit]
  by_cases hlt : i < n
  · simp [hlt, Nat.ne_of_lt hlt]
  · simp [hlt, hi, show i - n = 0 ↔ i = n by omega]

/-- `STATUS` bit by bit (R46, R183). -/
theorem getLsbD_statusWord (s : State) {i : Nat} (hi : i < 32) : (statusWord s).getLsbD i =
    (s.fsm.code.getLsbD i || decide (i = 3) && s.fsm.busy || decide (i = 8) && s.err.ill
      || decide (i = 9) && s.err.rng || decide (i = 10) && s.err.rej || decide (i = 11) && s.err.tmo) := by
  simp only [statusWord, BitVec.getLsbD_or, getLsbD_bit32_shiftLeft _ _ hi, BitVec.getLsbD_setWidth, hi, decide_true,
    Bool.true_and]

theorem busy_iff (d : FrameState) : d.busy = true ↔ d ≠ .idle ∧ d ≠ .fault := by
  cases d <;> decide

theorem getLsbD_statusWord_busy (s : State) :
    (statusWord s).getLsbD 3 = true ↔ s.fsm ≠ .idle ∧ s.fsm ≠ .fault := by
  rw [getLsbD_statusWord s (by decide), ← busy_iff]
  simp

/-- The flag of a cause stands at the bit that R271 gives the cause. -/
theorem getLsbD_statusWord_flag (s : State) (c : ErrorCause) :
    (statusWord s).getLsbD c.statusBit = s.err.flag c := by
  cases c <;> rw [getLsbD_statusWord s (by decide)] <;>
    simp [ErrorCause.statusBit, ErrorCause.code, ErrFlags.flag]

theorem extractLsb'_statusWord_state (s : State) : (statusWord s).extractLsb' 0 3 = s.fsm.code := by
  apply BitVec.eq_of_getLsbD_eq
  intro i hi
  have hother (k : Nat) (hk : 3 ≤ k) : i ≠ k := by omega
  simp [getLsbD_statusWord s (show i < 32 by omega), hi, hother]

/-- A row of bits of `STATUS` that holds neither a bit of `STATE` nor `BUSY` nor a flag reads 0. -/
theorem extractLsb'_statusWord_reserved (s : State) {start len : Nat} (hend : start + len ≤ 32)
    (h : 4 ≤ start ∧ start + len ≤ 8 ∨ 12 ≤ start) : (statusWord s).extractLsb' start len = 0#len := by
  apply BitVec.eq_of_getLsbD_eq
  intro i hi
  have hcode : s.fsm.code.getLsbD (start + i) = false := BitVec.getLsbD_of_ge _ _ (by omega)
  have hother (k : Nat) (hk : k = 3 ∨ 8 ≤ k ∧ k ≤ 11) : start + i ≠ k := by omega
  simp [getLsbD_statusWord s (show start + i < 32 by omega), hcode, hother]

theorem le_toNat_statusWord_of_timeout {s : State} (hf : s.fsm = .fault) (ht : s.err.tmo = true) :
    0x807 ≤ (statusWord s).toNat := by
  have hflags : ∀ ill rng rej : Bool, 0x807 ≤ (FrameState.fault.code.zeroExtend 32
      ||| (bit32 FrameState.fault.busy <<< 3) ||| (bit32 ill <<< 8) ||| (bit32 rng <<< 9) ||| (bit32 rej <<< 10)
      ||| (bit32 true <<< 11)).toNat := by decide
  simpa only [statusWord, hf, ht] using hflags _ _ _

/-- Settles O8, field by field. -/
theorem statusFields : Obligations.StatusFields := by
  intro s
  have hstate (d : FrameState) (h : s.fsm = d) : (statusWord s).extractLsb' 0 3 = d.code :=
    h ▸ extractLsb'_statusWord_state s
  exact ⟨statusWord s, rfl, hstate _, hstate _, hstate _, hstate _, hstate _, hstate _, getLsbD_statusWord_busy s,
    extractLsb'_statusWord_reserved s (by decide) (by decide), getLsbD_statusWord_flag s .illegalCommand,
    getLsbD_statusWord_flag s .indexRange, getLsbD_statusWord_flag s .showRejected,
    getLsbD_statusWord_flag s .txTimeout, extractLsb'_statusWord_reserved s (by decide) (by decide),
    le_toNat_statusWord_of_timeout⟩

/-! ### Writes -/

/-- Settles O9: the read shows the stored bits under their mask. -/
theorem writeColorKeepsLowBits : Obligations.WriteColorKeepsLowBits := by
  intro w s
  have hread : colorWord { s with color := colorField w } = w &&& 0x00FFFFFF#32 := by
    rw [colorWord_eq_append, zero_append_colorField]
  exact ⟨_, _, rfl, rfl, rfl, congrArg (· :: s.world.reads) hread⟩

/-- Settles O10: `WR_TIMEOUT` is this one update. -/
theorem writeTimeoutStoresWord : Obligations.WriteTimeoutStoresWord := fun _ _ => rfl

/-- Settles O11: each of the five answers the state it is given. -/
theorem ignoredWritesAndNop : Obligations.IgnoredWritesAndNop := fun _ _ _ => ⟨rfl, rfl, rfl, rfl, rfl⟩

end Sys2Proof.Machine
end

section
/-! PROOFS. The commands and their dispatch from a write to `CMD` (R104, R105, R194 to R200). -/

namespace Sys2Proof.Machine

/-! ### Dispatch -/

theorem execWrCmd_of_illegal {w : Word} (h : legalCommand w = false) (s : State) :
    execWrCmd w s = .next { s with err := { s.err with ill := true } } := by
  rw [execWrCmd, h, if_neg Bool.false_ne_true, illegalCommand_eq]

theorem legalCommand_eq_false {w : Word} (h : ∀ r ∈ commandRows, ¬ r.hits w = true) : legalCommand w = false := by
  refine Bool.eq_false_iff.2 fun hlegal => ?_
  obtain ⟨r, hr, hhit⟩ := (legalCommand_iff_hit w).1 hlegal
  exact h r hr hhit

/-- A word that hits a row of another pattern hits no row of R104. -/
theorem legalCommand_eq_false_of_hit {w m p : Word} (h : w &&& m = p)
    (hne : ∀ r ∈ commandRows, p &&& r.mask ≠ r.pattern &&& m) : legalCommand w = false :=
  legalCommand_eq_false fun r hr hhit => not_hit_of_hit h (hne r hr) (beq_iff_eq.1 hhit)

theorem legalCommand_of_decode_error {w : Word} {r : DecodeReject} :
    decodeCommand w = .error r → legalCommand w = false := by
  fun_cases decodeCommand w
  case case9 hnop hset hfill hshow hrecover hclrerr _ _ =>
    intro _
    apply legalCommand_eq_false
    simp only [commandRows, List.forall_mem_cons, Row.hits, beq_iff_eq]
    exact ⟨hnop, hset, hfill, hshow, hrecover, hclrerr, nofun⟩
  all_goals nofun

/-- `WR_CMD` has the effect of the row its word decodes to: the illegal-opcode rows are no rows of R104. -/
theorem execWrCmd_of_decode {w : Word} {i : Instr} (s : State) :
    decodeCommand w = .ok i → execWrCmd w s = exec i s := by
  fun_cases decodeCommand w
  case case1 hw | case3 hw | case4 hw | case5 hw | case6 hw =>
    rintro ⟨⟩
    obtain rfl := (and_fullMask w).symm.trans hw
    rfl
  case case2 hw =>
    rintro ⟨⟩
    obtain ⟨hop, hrsvd⟩ := (set_hit_iff w).1 hw
    have hhigh : 0x1000#16 = opField w ++ rsvdField w := by rw [hop, hrsvd]; rfl
    have hword : w = 0x1000#16 ++ indexField w := by rw [hhigh, fields_append]
    exact (congrArg (execWrCmd · s) hword).trans (execWrCmd_set (indexField w) s)
  case case7 hw | case8 hw =>
    rintro ⟨⟩
    rw [execWrCmd_of_illegal (legalCommand_eq_false_of_hit hw (by decide)), ← illegalCommand_eq]
    rfl
  case case9 => nofun

/-- Settles O5: a word decodes to a row or to none, and then it is illegal. -/
theorem commandDispatch : Obligations.CommandDispatch := by
  intro w s
  obtain ⟨t, ht, -⟩ := exec_effect (.wrCmd w) s
  have hillegal (h : legalCommand w = false) : t = { s with err := { s.err with ill := true } } := by
    cases ht.symm.trans (execWrCmd_of_illegal h s)
    rfl
  exact ⟨t, ht, fun i hi => (execWrCmd_of_decode s hi).symm.trans ht,
    fun r hr => hillegal (legalCommand_of_decode_error hr), hillegal⟩

/-! ### Requests on the flags -/

theorem request_indexRange_eq (s : State) :
    s.request (raise .indexRange) = { s with err := { s.err with rng := true } } := by
  simp [State.request, raise, ErrFlags.update]

theorem request_showRejected_eq (s : State) :
    s.request (raise .showRejected) = { s with err := { s.err with rej := true } } := by
  simp [State.request, raise, ErrFlags.update]

theorem request_clear_eq (s : State) : s.request clearRequest = { s with err := ErrFlags.clear } := by
  simp [State.request, clearRequest, ErrFlags.update, ErrFlags.clear]

/-! ### The table -/

/-- Settles O12, by the two ranges of `INDEX`. -/
theorem setEffect : Obligations.SetEffect := by
  intro index s hlength
  by_cases hi : index.toNat < s.params.nLeds
  · refine ⟨_, execCmdSet_of_lt hi, fun _ => ⟨rfl, List.length_set.trans hlength, fun j _ => ?_⟩,
      fun hge => absurd hi (Nat.not_lt.2 hge)⟩
    rw [List.getElem?_set, hlength, if_pos hi]
    simp only [eq_comm, colorOperand]
  · exact ⟨_, execCmdSet_of_not_lt hi, fun hlt => absurd hlt hi, fun _ => request_indexRange_eq s⟩

/-- Settles O13: the new table is `COLOR`, `N_LEDS` times. -/
theorem fillWritesEveryEntry : Obligations.FillWritesEveryEntry := fun _ =>
  ⟨_, rfl, rfl, List.length_replicate, fun _ hj => List.getElem?_replicate_of_lt hj⟩

/-! ### The state machine -/

theorem toNat_dlyLoad (s : State) : (dlyLoad s).toNat = s.params.tResetTicks - 1 :=
  Nat.mod_eq_of_lt (Nat.lt_trans s.params.lastTick.isLt (by decide))

/-- Settles O14, in `IDLE` and elsewhere. -/
theorem showEffect : Obligations.ShowEffect := by
  intro s
  by_cases h : s.fsm = .idle
  · exact ⟨_, execCmdShow_of_idle h, fun _ => ⟨rfl, toNat_dlyLoad s, rfl⟩, fun hne => absurd h hne⟩
  · exact ⟨_, execCmdShow_of_ne_idle h, fun heq => absurd heq h, fun _ => request_showRejected_eq s⟩

/-- Settles O15, in `FAULT` and elsewhere. -/
theorem recoverEffect : Obligations.RecoverEffect := by
  intro s
  by_cases h : s.fsm = .fault
  · exact ⟨_, execCmdRecover_of_fault h, fun _ => ⟨rfl, toNat_dlyLoad s, rfl⟩, fun hne => absurd h hne⟩
  · exact ⟨_, execCmdRecover_of_ne_fault h, fun heq => absurd heq h, fun _ => rfl⟩

/-! ### `CLRERR` -/

theorem execWrCmd_clrerr (s : State) : execWrCmd 0x50000000#32 s = execCmdClrerr s := rfl

/-- `TRANSMITTING` at its bound, with no completion at the edge (R225). -/
theorem fsmStep_of_bound {s : State} {done : Bool} (hf : s.fsm = .transmitting) (hd : (s.armed && done) = false)
    (hc : s.toCnt = 1#32) : fsmStep s done = .ok takeTxTimeout := by
  rw [fsmStep_of_transmitting hf, fsmTransmitting, hd, if_neg Bool.false_ne_true, if_pos hc]

/-- Settles O16: the host's half clears the flags, and the state machine's sets `err_to` after it. -/
theorem clrErrEffect : Obligations.ClrErrEffect := by
  refine ⟨fun s => congrArg _ (request_clear_eq s), fun s hplain hw hf hd hc => ?_⟩
  have ht := (hostHalf_of_write_cmd (s := beginPeriod s (currentPeriod s)) hw).trans (execWrCmd_clrerr _)
  have hfsm := fsmStep_of_bound (s := beginPeriod s (currentPeriod s)) hf hd hc
  refine ⟨_, step_of_halves hplain.up hplain.powered hplain.noReset ht hfsm, ?_⟩
  rw [request_clear_eq, State.applyFsm_err, ErrFlags.update_tmo]
  rfl

end Sys2Proof.Machine
end

section
/-! PROOFS. What a host access leaves unchanged, whatever it is (R41, R198, R199, R221). -/

namespace Sys2Proof.Machine

theorem HostEffect.armed_eq {s t : State} (h : HostEffect s t) : t.armed = s.armed := by cases h <;> rfl

theorem HostEffect.laneByte_eq {s t : State} (h : HostEffect s t) (k : Nat) : laneByte t k = laneByte s k := by
  rw [laneByte, laneByte, h.buf_eq, h.world_eq]

theorem HostEffect.laneBroken_eq {s t : State} (h : HostEffect s t) :
    t.world.marks.laneBroken = s.world.marks.laneBroken := by cases h <;> rfl

/-- `err_to` has no cause among the host's commands (R271). -/
theorem HostEffect.tmo_of_tmo {s t : State} (h : HostEffect s t) (ht : t.err.tmo = true) : s.err.tmo = true := by
  cases h with
  | error c hc =>
    cases c with
    | txTimeout => exact absurd rfl hc
    | _ => simpa [raise, ErrFlags.update] using ht
  | clear => simp [clearRequest, ErrFlags.update] at ht
  | _ => exact ht

/-- The state machine is moved by an accepted `SHOW` and by a `RECOVER` in `FAULT`, and then `dly` is loaded (R198, R199). -/
theorem HostEffect.fsm_dly_cases {s t : State} (h : HostEffect s t) :
    (t.fsm = s.fsm ∧ t.dly = s.dly)
      ∨ (s.fsm = .idle ∧ t.fsm = .preDelay ∧ t.dly.toNat = s.params.tResetTicks - 1)
      ∨ (s.fsm = .fault ∧ t.fsm = .postDelay ∧ t.dly.toNat = s.params.tResetTicks - 1) := by
  cases h with
  | showFrame hs => exact .inr (.inl ⟨hs, rfl, toNat_dlyLoad s⟩)
  | recover hs => exact .inr (.inr ⟨hs, rfl, toNat_dlyLoad s⟩)
  | _ => exact .inl ⟨rfl, rfl⟩

/-- Settles O19, field by field over the ten effects a host access can have. -/
theorem hostAccessFrame : Obligations.HostAccessFrame := by
  intro i s t ht
  have he := hostEffect_of_exec ht
  refine ⟨he.params_eq, he.idx_eq, he.toCnt_eq, he.armed_eq, he.buf_eq, he.laneByte_eq, he.tmo_of_tmo,
    he.fsm_dly_cases, ?_, he.laneBroken_eq⟩
  rw [he.world_eq]

end Sys2Proof.Machine
end

section
/-! PROOFS. One edge in the four frame states, whatever the host does: `PRE_DELAY`, `FILLING`, `TRANSMITTING` and
`POST_DELAY` (R221 to R227). -/

namespace Sys2Proof.Machine

/-! ### What the state machine asks for, row by row -/

section
variable {s : State} (done : Bool)

theorem fsmStep_of_counting (h : s.fsm = .preDelay ∨ s.fsm = .postDelay) (hd : s.dly ≠ 0#32) :
    fsmStep s done = .ok { dly := some (s.dly - 1#32) } := by
  rcases h with h | h
  · rw [fsmStep_of_preDelay h, fsmPreDelay, if_neg hd]
  · rw [fsmStep_of_postDelay h, fsmPostDelay, if_neg hd]

theorem fsmStep_of_preDelay_end (h : s.fsm = .preDelay) (hd : s.dly = 0#32) :
    fsmStep s done = .ok { fsm := some .filling, idx := some 0#16 } := by
  rw [fsmStep_of_preDelay h, fsmPreDelay, if_pos hd]

theorem fsmStep_of_postDelay_end (h : s.fsm = .postDelay) (hd : s.dly = 0#32) :
    fsmStep s done = .ok { fsm := some .idle } := by
  rw [fsmStep_of_postDelay h, fsmPostDelay, if_pos hd]

theorem fsmStep_of_fill_next {e : Color} (h : s.fsm = .filling) (he : s.table[s.idx.toNat]? = some e)
    (hi : s.idx.toNat ≠ s.params.nLeds - 1) :
    fsmStep s done = .ok { bufWrites := bytesAt (12 * s.idx.toNat) (encLed e), idx := some (s.idx + 1#16) } := by
  rw [fsmStep_of_filling h he]
  exact congrArg _ (if_neg hi)

theorem fsmStep_of_fill_last {e : Color} (h : s.fsm = .filling) (he : s.table[s.idx.toNat]? = some e)
    (hi : s.idx.toNat = s.params.nLeds - 1) :
    fsmStep s done = .ok
      { bufWrites := bytesAt (12 * s.idx.toNat) (encLed e), fsm := some .transmitting, armed := some false,
        toCnt := some s.timeout } := by
  rw [fsmStep_of_filling h he]
  exact congrArg _ (if_pos hi)

theorem fsmStep_of_complete {done : Bool} (h : s.fsm = .transmitting) (hd : (s.armed && done) = true) :
    fsmStep s done = .ok { fsm := some .postDelay, dly := some (dlyLoad s) } := by
  rw [fsmStep_of_transmitting h, fsmTransmitting, if_pos hd]

/-- One more edge of waiting counts `to_cnt` down, unless it is 0. -/
theorem fsmStep_of_wait {done : Bool} (h : s.fsm = .transmitting) (hd : (s.armed && done) = false)
    (hc : s.toCnt ≠ 1#32) :
    ∃ c, fsmStep s done = .ok { armed := some true, toCnt := c } ∧ (c.getD s.toCnt).toNat = s.toCnt.toNat - 1 := by
  rw [fsmStep_of_transmitting h, fsmTransmitting, hd, if_neg Bool.false_ne_true, if_neg hc]
  split
  · exact ⟨_, rfl, by simp only [Option.getD_some]; bv_omega⟩
  · exact ⟨none, rfl, by simp only [Option.getD_none]; bv_omega⟩

end

@[simp] theorem fsmStep_beginPeriod (s : State) (p : Period) (done : Bool) :
    fsmStep (beginPeriod s p) done = fsmStep s done := rfl

/-! ### The edge -/

/-- A step of a frame state that leaves the block as the updates `u` of the state machine say, up to what the host may
write at any edge: the table, `COLOR`, `TIMEOUT` and the flags of its own. -/
structure FrameEdge (s : State) (u : FsmUpdate) (s' : State) : Prop where
  step_eq : step s = .next s'
  params : s'.params = s.params
  fsm : s'.fsm = u.fsm.getD s.fsm
  dly : s'.dly = u.dly.getD s.dly
  idx : s'.idx = u.idx.getD s.idx
  toCnt : s'.toCnt = u.toCnt.getD s.toCnt
  armed : s'.armed = u.armed.getD s.armed
  buf : s'.buf = s.buf.writeAll u.bufWrites
  tmo_of_setTo : u.setTo = true → s'.err.tmo = true
  tmo_kept : u.setTo = false → s'.err.tmo = true → s.err.tmo = true

/-- The host's half of an edge leaves everything that the state machine's half of a frame state starts from. -/
theorem PlainEdge.frameEdge {s : State} {u : FsmUpdate} (h : PlainEdge s) (hb : s.fsm.busy = true)
    (hu : fsmStep s (txDone s (currentPeriod s)) = .ok u) : ∃ s', FrameEdge s u s' := by
  obtain ⟨hi, hf⟩ := (busy_iff s.fsm).1 hb
  obtain ⟨t, he, hstep⟩ := h.step_next hu
  refine ⟨_, hstep, he.params_eq, ?_, ?_, ?_, ?_, ?_, ?_, fun hs => ?_, fun hs ht => ?_⟩
  · simp [he.fsm_eq hi hf]
  · simp [he.dly_eq hi hf]
  · simp [he.idx_eq]
  · simp [he.toCnt_eq]
  · simp [he.armed_eq]
  · simp [he.buf_eq]
  · simp [hs]
  · exact he.tmo_of_tmo (by simpa [hs] using ht)

/-- Settles O23, by the two cases of `dly`. -/
theorem preDelayEdge : Obligations.PreDelayEdge := by
  intro s h hf
  by_cases hd : s.dly = 0#32
  · obtain ⟨s', e⟩ := h.frameEdge (congrArg FrameState.busy hf) (fsmStep_of_preDelay_end _ hf hd)
    exact ⟨s', e.step_eq, fun _ => ⟨e.fsm, e.idx, e.dly⟩, fun hne => absurd hd hne, e.buf, e.toCnt, e.armed,
      e.tmo_kept rfl⟩
  · obtain ⟨s', e⟩ := h.frameEdge (congrArg FrameState.busy hf) (fsmStep_of_counting _ (.inl hf) hd)
    exact ⟨s', e.step_eq, fun heq => absurd heq hd, fun _ => ⟨e.fsm.trans hf, e.dly, e.idx⟩, e.buf, e.toCnt, e.armed,
      e.tmo_kept rfl⟩

/-- Settles O26, by the two cases of `dly`. -/
theorem postDelayEdge : Obligations.PostDelayEdge := by
  intro s h hf
  by_cases hd : s.dly = 0#32
  · obtain ⟨s', e⟩ := h.frameEdge (congrArg FrameState.busy hf) (fsmStep_of_postDelay_end _ hf hd)
    exact ⟨s', e.step_eq, fun _ => ⟨e.fsm, e.dly⟩, fun hne => absurd hd hne, e.buf, e.idx, e.toCnt, e.armed,
      e.tmo_kept rfl⟩
  · obtain ⟨s', e⟩ := h.frameEdge (congrArg FrameState.busy hf) (fsmStep_of_counting _ (.inr hf) hd)
    exact ⟨s', e.step_eq, fun heq => absurd heq hd, fun _ => ⟨e.fsm.trans hf, e.dly⟩, e.buf, e.idx, e.toCnt, e.armed,
      e.tmo_kept rfl⟩

/-! ### `FILLING` -/

/-- The entry that `FILLING` reads is there (R31). -/
theorem State.Inv.exists_entry {s : State} (h : s.Inv) : ∃ e, s.table[s.idx.toNat]? = some e :=
  ⟨_, List.getElem?_eq_getElem (h.tableLength ▸ h.idxInTable)⟩

theorem State.Inv.toNat_idx_succ {s : State} (h : s.Inv) : (s.idx + 1#16).toNat = s.idx.toNat + 1 := by
  have hlt := h.idxInTable
  have := s.params.nLeds_range
  bv_omega

theorem Memory.read?_writeLed_other (m : Memory) (i : Nat) (e : Color) {k : Nat}
    (hk : k < 12 * i ∨ 12 * i + 12 ≤ k) : (m.writeAll (bytesAt (12 * i) (encLed e))).read? k = m.read? k := by
  rw [Memory.read?_writeAll_bytesAt, if_neg (by rw [length_encLed]; omega)]

/-- Settles O24: the writes are the same at the last LED and before it. -/
theorem fillingEdge : Obligations.FillingEdge := by
  intro s h hinv hf
  obtain ⟨e, he⟩ := hinv.exists_entry
  by_cases hi : s.idx.toNat = s.params.nLeds - 1
  · obtain ⟨s', x⟩ := h.frameEdge (congrArg FrameState.busy hf) (fsmStep_of_fill_last _ hf he hi)
    refine ⟨s', e, x.step_eq, he, fun m hm => ?_, fun k hk => ?_, fun _ => ⟨x.fsm, x.armed, x.toCnt, x.idx⟩,
      fun hne => absurd hi hne, x.dly, x.tmo_kept rfl⟩
    · rw [x.buf, Memory.read?_writeLed _ _ _ hm]
    · rw [x.buf, Memory.read?_writeLed_other _ _ _ hk]
  · obtain ⟨s', x⟩ := h.frameEdge (congrArg FrameState.busy hf) (fsmStep_of_fill_next _ hf he hi)
    refine ⟨s', e, x.step_eq, he, fun m hm => ?_, fun k hk => ?_, fun heq => absurd heq hi,
      fun _ => ⟨x.fsm.trans hf, ?_, x.armed, x.toCnt⟩, x.dly, x.tmo_kept rfl⟩
    · rw [x.buf, Memory.read?_writeLed _ _ _ hm]
    · rw [x.buf, Memory.read?_writeLed_other _ _ _ hk]
    · rw [x.idx]
      exact hinv.toNat_idx_succ

/-! ### `TRANSMITTING` -/

theorem txStart_iff (s : State) : s.txStart = true ↔ s.fsm = .transmitting ∧ s.armed = false := by
  simp [State.txStart]

/-- Settles O25, by completion, the bound and waiting. -/
theorem transmittingEdge : Obligations.TransmittingEdge := by
  intro s h hf
  have hstart : s.txStart = true ↔ s.armed = false := by simp [txStart_iff, hf]
  cases hd : s.armed && txDone s (currentPeriod s) with
  | true =>
    obtain ⟨s', e⟩ := h.frameEdge (congrArg FrameState.busy hf) (fsmStep_of_complete hf hd)
    have hdly : s'.dly.toNat = s.params.tResetTicks - 1 := (congrArg _ e.dly).trans (toNat_dlyLoad s)
    exact ⟨s', e.step_eq, fun _ _ => ⟨e.fsm, hdly, e.toCnt, e.armed, e.tmo_kept rfl⟩, nofun, nofun, e.buf, e.idx, hstart⟩
  | false =>
    have hno : s.armed = true → txDone s (currentPeriod s) ≠ true := fun ha hx => by simp [ha, hx] at hd
    by_cases hc : s.toCnt = 1#32
    · obtain ⟨s', e⟩ := h.frameEdge (congrArg FrameState.busy hf) (fsmStep_of_bound hf hd hc)
      exact ⟨s', e.step_eq, fun ha hx => absurd hx (hno ha),
        fun _ _ => ⟨e.fsm, e.tmo_of_setTo rfl, e.dly, e.toCnt, e.armed⟩, fun _ hne => absurd hc hne, e.buf, e.idx, hstart⟩
    · obtain ⟨c, hu, hcount⟩ := fsmStep_of_wait hf hd hc
      obtain ⟨s', e⟩ := h.frameEdge (congrArg FrameState.busy hf) hu
      exact ⟨s', e.step_eq, fun ha hx => absurd hx (hno ha), fun _ heq => absurd heq hc,
        fun _ _ => ⟨e.fsm.trans hf, e.armed, e.dly, (congrArg _ e.toCnt).trans hcount, e.tmo_kept rfl⟩, e.buf, e.idx,
        hstart⟩

/-! ### `IDLE` and `FAULT` -/

theorem txStart_eq_false {s : State} (h : s.fsm ≠ .transmitting) : s.txStart = false :=
  Bool.eq_false_iff.2 fun hs => h ((txStart_iff s).1 hs).1

theorem hostHalf_of_none {s : State} {p : Period} (h : presented s p = none) : hostHalf s p = .next s := by
  simp only [hostHalf, h]

/-- Settles O27: neither half of the edge has anything to do. -/
theorem idleAndFaultHold : Obligations.IdleAndFaultHold := by
  intro s h hf hp
  have ht := hostHalf_of_none (s := beginPeriod s (currentPeriod s)) hp
  refine ⟨_, step_of_halves h.up h.powered h.noReset ht (fsmStep_of_rest hf _), ?_, txStart_eq_false ?_⟩
  · rw [State.applyFsm_none]
    rfl
  · rcases hf with hf | hf <;> simp [hf]

end Sys2Proof.Machine
end

section
/-! PROOFS. What a step that goes on tells of the edge, and that while `FILLING` the buffer follows the table (R144, R224). -/

namespace Sys2Proof.Machine

/-! ### From the step back to the edge -/

/-- A step that goes on, with neither reset nor loss of power, met no flaw. -/
theorem plainEdge_of_step {s s' : State} (hu : s.world.up = true) (hp : (currentPeriod s).powerLoss = false)
    (hr : (currentPeriod s).rst = false) (hs : step s = .next s') : PlainEdge s := by
  refine ⟨hu, hp, hr, fun a ha => ?_⟩
  cases hf : a.flaw with
  | none => rfl
  | some f => cases hs.symm.trans (step_of_flaw hu hp ha hf)

/-- The two halves of a plain edge whose step goes on. -/
theorem PlainEdge.halves_of_step {s s' : State} (h : PlainEdge s) (hs : step s = .next s') :
    ∃ t u, hostHalf (beginPeriod s (currentPeriod s)) (currentPeriod s) = .next t ∧
      fsmStep s (txDone s (currentPeriod s)) = .ok u ∧
      s' = { t.applyFsm u with
        world := endWorld (beginPeriod s (currentPeriod s)) (currentPeriod s) t.world } := by
  rcases step_cases hs with ⟨hp, -⟩ | ⟨-, -, hr, -⟩ | ⟨-, -, hr, -⟩ | ⟨-, -, -, hx⟩
  · simp [h.powered] at hp
  · simp [h.noReset] at hr
  · simp [h.noReset] at hr
  · exact hx

/-- In a frame state the step is the state machine's row. -/
theorem PlainEdge.frameEdge_of_step {s s' : State} (h : PlainEdge s) (hb : s.fsm.busy = true)
    (hs : step s = .next s') : ∃ u, FsmEffect s (txDone s (currentPeriod s)) u ∧ FrameEdge s u s' := by
  obtain ⟨t, u, -, hu, -⟩ := h.halves_of_step hs
  obtain ⟨x, e⟩ := h.frameEdge hb hu
  cases hs.symm.trans e.step_eq
  exact ⟨u, fsmEffect_of_fsmStep hu, e⟩

theorem idle_or_fault_of_not_busy {d : FrameState} (h : ¬ d.busy = true) : d = .idle ∨ d = .fault := by
  cases d with
  | idle => exact .inl rfl
  | fault => exact .inr rfl
  | _ => exact absurd rfl h

/-- Outside the frame states the state machine has no part in the step. -/
theorem PlainEdge.hostHalf_of_rest_step {s s' : State} (h : PlainEdge s) (hr : s.fsm = .idle ∨ s.fsm = .fault)
    (hs : step s = .next s') :
    ∃ t, hostHalf (beginPeriod s (currentPeriod s)) (currentPeriod s) = .next t ∧ s'.fsm = t.fsm := by
  obtain ⟨t, u, ht, hu, rfl⟩ := h.halves_of_step hs
  obtain rfl : {} = u := Except.ok.inj ((fsmStep_of_rest hr _).symm.trans hu)
  exact ⟨t, ht, rfl⟩

/-- No host access enters `FILLING` or `TRANSMITTING`. -/
theorem PlainEdge.fsm_of_rest_step {s s' : State} (h : PlainEdge s) (hr : s.fsm = .idle ∨ s.fsm = .fault)
    (hs : step s = .next s') : s'.fsm ≠ .filling ∧ s'.fsm ≠ .transmitting := by
  obtain ⟨t, ht, hfsm⟩ := h.hostHalf_of_rest_step hr hs
  rw [hfsm]
  rcases (hostHalf_effect ht).fsm_dly_cases with ⟨hf, -⟩ | ⟨-, hf, -⟩ | ⟨-, hf, -⟩
  · rcases hr with hr | hr <;> simp [hf, hr]
  · simp [hf]
  · simp [hf]

/-! ### The LEDs that stand in the buffer -/

/-- The LEDs before `n` stand in `m` as the table `t` has them (R144). -/
def Memory.HoldsLeds (m : Memory) (t : List Color) (n : Nat) : Prop :=
  ∀ i < n, ∀ e, t[i]? = some e → ∀ j < 12, m.read? (12 * i + j) = (encLed e)[j]?

theorem Memory.HoldsLeds.writeLed {m : Memory} {t : List Color} {n : Nat} {e : Color} (h : m.HoldsLeds t n)
    (he : t[n]? = some e) : (m.writeAll (bytesAt (12 * n) (encLed e))).HoldsLeds t (n + 1) := by
  intro i hi e' he' j hj
  rcases Nat.lt_succ_iff_lt_or_eq.1 hi with hlt | rfl
  · rw [Memory.read?_writeLed_other _ _ _ (by omega)]
    exact h i hlt e' he' j hj
  · obtain rfl : e = e' := Option.some.inj (he.symm.trans he')
    exact Memory.read?_writeLed _ _ _ hj

/-- Bytes that are the LEDs of `t` one after the other are those of its frame (R144). -/
theorem getElem?_encFrame_of_leds {t : List Color} {g : Nat → Option Byte}
    (h : ∀ i e, t[i]? = some e → ∀ j < 12, g (12 * i + j) = (encLed e)[j]?) :
    ∀ k < 12 * t.length, g k = (encFrame t)[k]? := by
  intro k hk
  have he : t[k / 12]? = some (t[k / 12]'(by omega)) := List.getElem?_eq_getElem _
  rw [← Nat.div_add_mod k 12, getElem?_encFrame he (Nat.mod_lt _ (by decide))]
  exact h _ _ he _ (Nat.mod_lt _ (by decide))

/-- In a frame state, for each row of the state machine. -/
theorem EncodedSoFar.of_frameEdge {s s' : State} {u : FsmUpdate} (h : EncodedSoFar s) (hinv : s.Inv)
    (hb : s.fsm.busy = true) (hu : FsmEffect s (txDone s (currentPeriod s)) u) (e : FrameEdge s u s')
    (ht : s'.table = s.table) : EncodedSoFar s' := by
  cases hu with
  | rest hr => rcases hr with hr | hr <;> simp [hr, FrameState.busy] at hb
  | countDown hf =>
    have hfsm : s'.fsm = s.fsm := e.fsm
    exact ⟨fun hx => by simp [← hfsm, hx] at hf, fun hx => by simp [← hfsm, hx] at hf⟩
  | beginFilling hf hd =>
    have hidx : s'.idx = 0#16 := e.idx
    exact ⟨fun _ i hi => by simp [hidx] at hi, fun hx => nomatch e.fsm.symm.trans hx⟩
  | fillLed c hf hc hi =>
    have hholds : Memory.HoldsLeds _ s.table (s.idx.toNat + 1) := Memory.HoldsLeds.writeLed (h.filling hf) hc
    have hidx : s'.idx.toNat = s.idx.toNat + 1 := (congrArg _ e.idx).trans hinv.toNat_idx_succ
    refine ⟨fun _ => ?_, fun hx => nomatch hf.symm.trans (e.fsm.symm.trans hx)⟩
    rw [hidx, ht, e.buf]
    exact hholds
  | fillLast c hf hc hi =>
    have hholds : Memory.HoldsLeds _ s.table (s.idx.toNat + 1) := Memory.HoldsLeds.writeLed (h.filling hf) hc
    have hlen : s.table.length = s.idx.toNat + 1 := by rw [hinv.tableLength, hi]; rfl
    refine ⟨fun hx => (nomatch e.fsm.symm.trans hx), fun _ => ?_⟩
    rw [Params.bufLen, e.params, ← hinv.tableLength, ht, e.buf]
    refine getElem?_encFrame_of_leds fun i c' hc' => hholds i ?_ c' hc'
    exact hlen ▸ (List.getElem?_eq_some_iff.1 hc').1
  | complete | timeOut | endDelay =>
    exact ⟨fun hx => (nomatch e.fsm.symm.trans hx), fun hx => (nomatch e.fsm.symm.trans hx)⟩
  | waitBounded hf | waitUnbounded hf =>
    refine ⟨fun hx => (nomatch hf.symm.trans (e.fsm.symm.trans hx)), fun _ => ?_⟩
    rw [e.params, ht, e.buf]
    exact h.transmitting hf

/-- Settles O51: nothing is said of the state after a reset edge, and a plain edge is the state machine's row. -/
theorem fillTracksTable : Obligations.FillTracksTable := by
  intro s s' hinv h hs ht
  rcases step_cases hs with ⟨-, rfl⟩ | ⟨-, -, -, -, rfl⟩ | ⟨-, -, -, rfl⟩ | ⟨hp, hu, hr, -⟩
  · exact ⟨h.filling, h.transmitting⟩
  · exact ⟨nofun, nofun⟩
  · exact ⟨nofun, nofun⟩
  · have hplain := plainEdge_of_step hu hp hr hs
    by_cases hb : s.fsm.busy = true
    · obtain ⟨u, heff, e⟩ := hplain.frameEdge_of_step hb hs
      exact h.of_frameEdge hinv hb heff e ht
    · obtain ⟨hf, htx⟩ := hplain.fsm_of_rest_step (idle_or_fault_of_not_busy hb) hs
      exact ⟨fun hx => absurd hx hf, fun hx => absurd hx htx⟩

end Sys2Proof.Machine
end

section
/-! PROOFS. The block reads of its world only the access presented and, in `TRANSMITTING` once armed, `tx_done` (R221, R233);
what a step runs is the access decoded (R221). -/

namespace Sys2Proof.Machine

/-! ### A host access run in another world -/

/-- `f` completes on `s` with the same effect on the block, whatever world it is run in. -/
def BlindToWorld (f : State → Host.Outcome State Fault Refusal) (s : State) (w : World) : Prop :=
  ∃ t w', f s = .next t ∧ f { s with world := w } = .next { t with world := w' }

theorem blindToWorld_execCmdSet (index : Index) (s : State) (w : World) : BlindToWorld (execCmdSet index) s w := by
  by_cases hi : index.toNat < s.params.nLeds
  · exact ⟨_, w, execCmdSet_of_lt hi, execCmdSet_of_lt hi⟩
  · exact ⟨_, w, execCmdSet_of_not_lt hi, execCmdSet_of_not_lt hi⟩

theorem blindToWorld_execCmdShow (s : State) (w : World) : BlindToWorld execCmdShow s w := by
  by_cases hs : s.fsm = .idle
  · exact ⟨_, _, execCmdShow_of_idle hs, execCmdShow_of_idle hs⟩
  · exact ⟨_, w, execCmdShow_of_ne_idle hs, execCmdShow_of_ne_idle hs⟩

theorem blindToWorld_execCmdRecover (s : State) (w : World) : BlindToWorld execCmdRecover s w := by
  by_cases hs : s.fsm = .fault
  · exact ⟨_, _, execCmdRecover_of_fault hs, execCmdRecover_of_fault hs⟩
  · exact ⟨_, w, execCmdRecover_of_ne_fault hs, execCmdRecover_of_ne_fault hs⟩

theorem blindToWorld_execWrCmd (v : Word) (s : State) (w : World) : BlindToWorld (execWrCmd v) s w := by
  simp only [BlindToWorld, execWrCmd]
  split
  · split
    · exact ⟨_, w, rfl, rfl⟩
    · split
      · exact blindToWorld_execCmdSet _ s w
      · split
        · exact ⟨_, w, rfl, rfl⟩
        · split
          · exact blindToWorld_execCmdShow s w
          · split
            · exact blindToWorld_execCmdRecover s w
            · exact ⟨_, w, rfl, rfl⟩
  · exact ⟨_, w, rfl, rfl⟩

theorem blindToWorld_exec (i : Instr) (s : State) (w : World) : BlindToWorld (exec i) s w := by
  cases i with
  | wrCmd v => exact blindToWorld_execWrCmd v s w
  | cmdSet index => exact blindToWorld_execCmdSet index s w
  | cmdShow => exact blindToWorld_execCmdShow s w
  | cmdRecover => exact blindToWorld_execCmdRecover s w
  | _ => exact ⟨_, _, rfl, rfl⟩

theorem exec_of_world {i : Instr} {s t : State} (h : exec i s = .next t) (w : World) :
    ∃ w', exec i { s with world := w } = .next { t with world := w' } := by
  obtain ⟨t', w', ht', hw⟩ := blindToWorld_exec i s w
  cases h.symm.trans ht'
  exact ⟨w', hw⟩

theorem hostHalf_of_world {s t : State} {p p' : Period} {w : World} (h : hostHalf s p = .next t)
    (hp : presented { s with world := w } p' = presented s p) :
    ∃ w', hostHalf { s with world := w } p' = .next { t with world := w' } := by
  rcases hostHalf_cases h with ⟨hn, rfl⟩ | ⟨a, i, ha, hi, ht⟩
  · exact ⟨w, hostHalf_of_none (hp.trans hn)⟩
  · obtain ⟨w', hw⟩ := exec_of_world ht w
    exact ⟨w', by simp only [hostHalf, hp, ha, hi, hw]⟩

/-! ### The step of a decoded access -/

theorem hostHalf_of_decoded {s : State} {p : Period} {a : BusAccess} {i : Instr} (ha : presented s p = some a)
    (hi : decodeAccess a = .ok i) : hostHalf s p = exec i s := by
  simp only [hostHalf, ha, hi]

/-- Settles O20: with power and no reset the step is `runEdge`, and its host half is `exec` of the decoded access. -/
theorem stepRunsDecodedAccess : Obligations.StepRunsDecodedAccess := by
  intro s a i hu hp hr ha hi
  have hhost := hostHalf_of_decoded (s := beginPeriod s (currentPeriod s)) ha hi
  obtain ⟨t, ht, -⟩ := exec_effect i (beginPeriod s (currentPeriod s))
  simp [step, hu, hp, hr, runEdge, hhost, ht]

/-- Settles O29: the state machine asks for no write of these fields, and the access run at the edge has the effect it has
on `s`. -/
theorem fsmLeavesHostState : Obligations.FsmLeavesHostState := by
  intro s h hinv
  obtain ⟨s', hs⟩ := hinv.step_next h.up h.powered h.conforming
  obtain ⟨t, u, ht, -, rfl⟩ := h.halves_of_step hs
  refine ⟨_, hs, (hostHalf_effect ht).params_eq, fun hn => ?_, fun a i t' ha hi ht' => ?_⟩
  · cases ht.symm.trans (hostHalf_of_none (s := beginPeriod s (currentPeriod s)) hn)
    exact ⟨rfl, rfl, rfl⟩
  · obtain ⟨w', hw⟩ := exec_of_world ht' (beginPeriod s (currentPeriod s)).world
    cases ht.symm.trans ((hostHalf_of_decoded (s := beginPeriod s (currentPeriod s)) ha hi).trans hw)
    exact ⟨rfl, rfl, rfl⟩

/-! ### `tx_done` -/

/-- R233: the state machine looks at `tx_done` in `TRANSMITTING` with `armed = 1` only. -/
theorem fsmStep_of_not_armed {s : State} (h : s.fsm = .transmitting → s.armed = false) (d d' : Bool) :
    fsmStep s d = fsmStep s d' := by
  cases hf : s.fsm with
  | transmitting => simp only [fsmStep_of_transmitting hf, fsmTransmitting, h hf, Bool.false_and]
  | _ => simp only [fsmStep, hf, fsmIdle, fsmPreDelay, fsmPostDelay, fsmFault]

/-- `s` with other inputs ahead. -/
def State.withEnv (s : State) (env : List Period) : State := { s with world := { s.world with env := env } }

@[simp] theorem currentPeriod_withEnv (s : State) (p : Period) (rest : List Period) :
    currentPeriod (s.withEnv (p :: rest)) = p := rfl

/-- The host's half does the same to the block in a period that differs in `tx_done` only. -/
theorem hostHalf_of_tx {s t : State} {p : Period} (h : hostHalf (beginPeriod s p) p = .next t) (tx : Draw)
    (env : List Period) :
    ∃ w, hostHalf (beginPeriod (s.withEnv env) { p with tx := tx }) { p with tx := tx } = .next { t with world := w } :=
  hostHalf_of_world (s := beginPeriod s p) (p' := { p with tx := tx })
    (w := (beginPeriod (s.withEnv env) { p with tx := tx }).world) h rfl

/-- Settles O28: the period with another `tx_done` begins with the same block, presents the same access, and its state
machine asks for the same. -/
theorem txDoneIgnoredUnlessArmed : Obligations.TxDoneIgnoredUnlessArmed := by
  intro s s' p tx rest hna henv hs
  show ∃ t', step (s.withEnv ({ p with tx := tx } :: rest)) = .next t' ∧ t' = { s' with world := t'.world }
  have hperiod : currentPeriod s = p := by rw [currentPeriod, henv, List.headD_cons]
  have hcases := step_cases hs
  rw [hperiod] at hcases
  rcases hcases with ⟨hp, rfl⟩ | ⟨hp, hu, hr, hf, rfl⟩ | ⟨hp, hu, hr, rfl⟩ | ⟨hp, hu, hr, t, u, ht, hfsm, rfl⟩
  · exact ⟨_, step_of_powerLoss hp, rfl⟩
  · exact ⟨_, step_of_reset hu hp hr hf, rfl⟩
  · exact ⟨_, step_of_first_reset hu hp hr, rfl⟩
  · obtain ⟨w, hw⟩ := hostHalf_of_tx ht tx ({ p with tx := tx } :: rest)
    exact ⟨_, step_of_halves hu hp hr hw ((fsmStep_of_not_armed hna _ _).trans hfsm), rfl⟩

end Sys2Proof.Machine
end

section
/-! PROOFS. The transition table: which access moves the state machine, and what an edge makes of `state` (R198, R199, R220,
R230). -/

namespace Sys2Proof.Machine

/-! ### The accesses that move the state machine -/

/-- Of the instructions but `WR_CMD` only `SHOW` in `IDLE` and `RECOVER` in `FAULT` move it. -/
theorem fsm_cases_of_exec {i : Instr} {s t : State} (h : exec i s = .next t) (hi : ∀ w, i ≠ .wrCmd w) :
    t.fsm = s.fsm ∨ (i = .cmdShow ∧ s.fsm = .idle) ∨ (i = .cmdRecover ∧ s.fsm = .fault) := by
  cases i with
  | wrCmd w => exact absurd rfl (hi w)
  | cmdSet index =>
    by_cases hlt : index.toNat < s.params.nLeds
    · cases h.symm.trans (execCmdSet_of_lt hlt)
      exact .inl rfl
    · cases h.symm.trans (execCmdSet_of_not_lt hlt)
      exact .inl rfl
  | cmdShow =>
    by_cases hs : s.fsm = .idle
    · exact .inr (.inl ⟨rfl, hs⟩)
    · cases h.symm.trans (execCmdShow_of_ne_idle hs)
      exact .inl rfl
  | cmdRecover =>
    by_cases hs : s.fsm = .fault
    · exact .inr (.inr ⟨rfl, hs⟩)
    · cases h.symm.trans (execCmdRecover_of_ne_fault hs)
      exact .inl rfl
  | _ => cases h; exact .inl rfl

/-- The one word that decodes to a command is its encoding (R104). -/
theorem fsm_cases_of_execWrCmd {w : Word} {s t : State} (h : execWrCmd w s = .next t) :
    t.fsm = s.fsm ∨ (w = 0x30000000#32 ∧ s.fsm = .idle) ∨ (w = 0x40000000#32 ∧ s.fsm = .fault) := by
  cases hd : decodeCommand w with
  | error r =>
    cases h.symm.trans (execWrCmd_of_illegal (legalCommand_of_decode_error hd) s)
    exact .inl rfl
  | ok i =>
    have hencode : encode i = .cmdw w := (decodedWordsReencode.2 w i hd).2
    rcases fsm_cases_of_exec ((execWrCmd_of_decode s hd).symm.trans h) (fun v hv => by subst hv; cases hencode) with
      hf | ⟨rfl, hf⟩ | ⟨rfl, hf⟩
    · exact .inl hf
    · cases hencode
      exact .inr (.inl ⟨rfl, hf⟩)
    · cases hencode
      exact .inr (.inr ⟨rfl, hf⟩)

/-- A code's row is a command's only where the code is that of a write to `CMD` (R103). -/
theorem decodeBtc_eq_wrCmd {code : BitVec 4} {v w : Word} : decodeBtc code v = .wrCmd w → code = 0b1000#4 ∧ v = w := by
  fun_cases decodeBtc code v
  case case9 hcode =>
    rintro ⟨⟩
    exact ⟨hcode, rfl⟩
  all_goals nofun

theorem decodeBtc_ne_command (code : BitVec 4) (v : Word) : decodeBtc code v ≠ .cmdShow ∧ decodeBtc code v ≠ .cmdRecover := by
  fun_cases decodeBtc code v <;> exact ⟨nofun, nofun⟩

/-- A conforming access with the code of a write to `CMD` is that write (R75, R100). -/
theorem eq_writeOf_cmd {a : BusAccess} (hf : a.flaw = none) (hc : a.code = 0b1000#4) : a = writeOf .cmd a.wdata := by
  obtain ⟨hwidth, hbeats, hlt, hmod⟩ := a.flaw_eq_none_iff.1 hf
  have hwrite : (if a.write then 1#1 else 0#1) = 1#1 := by
    have := congrArg (BitVec.extractLsb' 3 1) hc
    rwa [BusAccess.code, BitVec.extractLsb'_append_eq_left] at this
  have haddr : BitVec.ofNat 3 (a.offset / 4) = 0#3 := by
    have := congrArg (BitVec.extractLsb' 0 3) hc
    rwa [BusAccess.code, BitVec.extractLsb'_append_eq_right] at this
  have hmod8 : a.offset / 4 % 8 = 0 := congrArg BitVec.toNat haddr
  obtain ⟨write, offset, width, beats, wdata⟩ := a
  obtain rfl : write = true := by
    cases write with
    | true => rfl
    | false => cases hwrite
  obtain rfl : offset = 0 := by simp only at hlt hmod hmod8; omega
  subst hwidth hbeats
  rfl

/-- What a host access does to `state`, by the access presented. -/
theorem hostHalf_fsm_cases {s t : State} {p : Period} (h : hostHalf s p = .next t) :
    t.fsm = s.fsm ∨ (presented s p = some (writeOf .cmd 0x30000000#32) ∧ s.fsm = .idle)
      ∨ (presented s p = some (writeOf .cmd 0x40000000#32) ∧ s.fsm = .fault) := by
  rcases hostHalf_cases h with ⟨-, rfl⟩ | ⟨a, i, ha, hi, ht⟩
  · exact .inl rfl
  · have hflaw : a.flaw = none := (decodes_iff_conforming a).1 ⟨i, hi⟩
    obtain rfl : decodeBtc a.code a.wdata = i := Except.ok.inj ((decodeAccess_of_conforming hflaw).symm.trans hi)
    by_cases hw : ∃ w, decodeBtc a.code a.wdata = .wrCmd w
    · obtain ⟨w, hw⟩ := hw
      obtain ⟨hcode, rfl⟩ := decodeBtc_eq_wrCmd hw
      rw [hw] at ht
      rw [ha, eq_writeOf_cmd hflaw hcode]
      rcases fsm_cases_of_execWrCmd ht with hf | ⟨hword, hf⟩ | ⟨hword, hf⟩
      · exact .inl hf
      · exact .inr (.inl ⟨by rw [hword], hf⟩)
      · exact .inr (.inr ⟨by rw [hword], hf⟩)
    · obtain ⟨hshow, hrecover⟩ := decodeBtc_ne_command a.code a.wdata
      rcases fsm_cases_of_exec ht (not_exists.1 hw) with hf | ⟨hs, -⟩ | ⟨hr, -⟩
      · exact .inl hf
      · exact absurd hs hshow
      · exact absurd hr hrecover

theorem execWrCmd_show (s : State) : execWrCmd 0x30000000#32 s = execCmdShow s := rfl

theorem execWrCmd_recover (s : State) : execWrCmd 0x40000000#32 s = execCmdRecover s := rfl

/-- `SHOW` written in `IDLE` is accepted (R198). -/
theorem hostHalf_of_show {s : State} {p : Period} (hp : presented s p = some (writeOf .cmd 0x30000000#32))
    (hf : s.fsm = .idle) : hostHalf s p = .next (s.markShow.enterDelay .preDelay) :=
  (hostHalf_of_write_cmd hp).trans ((execWrCmd_show s).trans (execCmdShow_of_idle hf))

/-- `RECOVER` written in `FAULT` takes effect (R199). -/
theorem hostHalf_of_recover {s : State} {p : Period} (hp : presented s p = some (writeOf .cmd 0x40000000#32))
    (hf : s.fsm = .fault) : hostHalf s p = .next s.markRecover.leaveFault :=
  (hostHalf_of_write_cmd hp).trans ((execWrCmd_recover s).trans (execCmdRecover_of_fault hf))

theorem fsm_of_hostHalf_idle {s t : State} {p : Period} (h : hostHalf s p = .next t) (hf : s.fsm = .idle) :
    t.fsm = if presented s p = some (writeOf .cmd 0x30000000#32) then .preDelay else .idle := by
  split
  · rename_i hp
    cases h.symm.trans (hostHalf_of_show hp hf)
    rfl
  · rename_i hp
    rcases hostHalf_fsm_cases h with ht | ⟨hp', -⟩ | ⟨-, hf'⟩
    · exact ht.trans hf
    · exact absurd hp' hp
    · cases hf.symm.trans hf'

theorem fsm_of_hostHalf_fault {s t : State} {p : Period} (h : hostHalf s p = .next t) (hf : s.fsm = .fault) :
    t.fsm = if presented s p = some (writeOf .cmd 0x40000000#32) then .postDelay else .fault := by
  split
  · rename_i hp
    cases h.symm.trans (hostHalf_of_recover hp hf)
    rfl
  · rename_i hp
    rcases hostHalf_fsm_cases h with ht | ⟨-, hf'⟩ | ⟨hp', -⟩
    · exact ht.trans hf
    · cases hf.symm.trans hf'
    · exact absurd hp' hp

/-! ### The table -/

/-- In a frame state `state` follows the row of the state machine. -/
theorem PlainEdge.fsm_of_row {s s' : State} {u : FsmUpdate} (h : PlainEdge s) (hb : s.fsm.busy = true)
    (hu : fsmStep s (txDone s (currentPeriod s)) = .ok u) (hs : step s = .next s') : s'.fsm = u.fsm.getD s.fsm := by
  obtain ⟨x, e⟩ := h.frameEdge hb hu
  cases hs.symm.trans e.step_eq
  exact e.fsm

theorem PlainEdge.fsm_of_preDelay {s s' : State} (h : PlainEdge s) (hf : s.fsm = .preDelay) (hs : step s = .next s') :
    s'.fsm = if s.dly = 0#32 then .filling else .preDelay := by
  have hb : s.fsm.busy = true := congrArg FrameState.busy hf
  split
  · rename_i hd
    exact h.fsm_of_row hb (fsmStep_of_preDelay_end _ hf hd) hs
  · rename_i hd
    exact (h.fsm_of_row hb (fsmStep_of_counting _ (.inl hf) hd) hs).trans hf

theorem PlainEdge.fsm_of_postDelay {s s' : State} (h : PlainEdge s) (hf : s.fsm = .postDelay) (hs : step s = .next s') :
    s'.fsm = if s.dly = 0#32 then .idle else .postDelay := by
  have hb : s.fsm.busy = true := congrArg FrameState.busy hf
  split
  · rename_i hd
    exact h.fsm_of_row hb (fsmStep_of_postDelay_end _ hf hd) hs
  · rename_i hd
    exact (h.fsm_of_row hb (fsmStep_of_counting _ (.inr hf) hd) hs).trans hf

theorem exists_entry_of_fsmStep {s : State} {done : Bool} {u : FsmUpdate} (hf : s.fsm = .filling)
    (hu : fsmStep s done = .ok u) : ∃ e, s.table[s.idx.toNat]? = some e := by
  cases he : s.table[s.idx.toNat]? with
  | some e => exact ⟨e, rfl⟩
  | none => simp [fsmStep, hf, he] at hu

theorem PlainEdge.fsm_of_filling {s s' : State} (h : PlainEdge s) (hf : s.fsm = .filling) (hs : step s = .next s') :
    s'.fsm = if s.idx.toNat = s.params.nLeds - 1 then .transmitting else .filling := by
  have hb : s.fsm.busy = true := congrArg FrameState.busy hf
  obtain ⟨-, u, -, hu, -⟩ := h.halves_of_step hs
  obtain ⟨e, he⟩ := exists_entry_of_fsmStep hf hu
  split
  · rename_i hi
    exact h.fsm_of_row hb (fsmStep_of_fill_last _ hf he hi) hs
  · rename_i hi
    exact (h.fsm_of_row hb (fsmStep_of_fill_next _ hf he hi) hs).trans hf

theorem PlainEdge.fsm_of_transmitting {s s' : State} (h : PlainEdge s) (hf : s.fsm = .transmitting)
    (hs : step s = .next s') :
    s'.fsm = if s.armed && txDone s (currentPeriod s) then .postDelay
      else if s.toCnt = 1#32 then .fault else .transmitting := by
  have hb : s.fsm.busy = true := congrArg FrameState.busy hf
  split
  · rename_i hd
    exact h.fsm_of_row hb (fsmStep_of_complete hf hd) hs
  · rename_i hd
    have hd' := Bool.eq_false_iff.2 hd
    split
    · rename_i hc
      exact h.fsm_of_row hb (fsmStep_of_bound hf hd' hc) hs
    · rename_i hc
      obtain ⟨c, hu, -⟩ := fsmStep_of_wait hf hd' hc
      exact (h.fsm_of_row hb hu hs).trans hf

/-- Settles O31, row by row. -/
theorem transitionTable : Obligations.TransitionTable := by
  intro s s' hu hp hs
  cases hr : (currentPeriod s).rst with
  | true =>
    rcases step_cases hs with ⟨hp', -⟩ | ⟨-, -, -, -, rfl⟩ | ⟨-, hu', -⟩ | ⟨-, -, hr', -⟩
    · cases hp.symm.trans hp'
    · rfl
    · cases hu.symm.trans hu'
    · cases hr.symm.trans hr'
  | false =>
    have h := plainEdge_of_step hu hp hr hs
    rw [if_neg Bool.false_ne_true]
    cases hf : s.fsm with
    | idle =>
      obtain ⟨t, ht, hfsm⟩ := h.hostHalf_of_rest_step (.inl hf) hs
      exact hfsm.trans (fsm_of_hostHalf_idle (s := beginPeriod s (currentPeriod s)) ht hf)
    | fault =>
      obtain ⟨t, ht, hfsm⟩ := h.hostHalf_of_rest_step (.inr hf) hs
      exact hfsm.trans (fsm_of_hostHalf_fault (s := beginPeriod s (currentPeriod s)) ht hf)
    | preDelay => exact h.fsm_of_preDelay hf hs
    | filling => exact h.fsm_of_filling hf hs
    | transmitting => exact h.fsm_of_transmitting hf hs
    | postDelay => exact h.fsm_of_postDelay hf hs

/-- Settles O33: `TRANSMITTING` with `armed = 0` is what the last LED leaves; every edge of waiting arms. -/
theorem txStartOnlyAfterFilling : Obligations.TxStartOnlyAfterFilling := by
  intro s s' hu hp hs hstart
  obtain ⟨htx, harmed⟩ := (txStart_iff s').1 hstart
  cases hr : (currentPeriod s).rst with
  | true =>
    have hidle := transitionTable s s' hu hp hs
    rw [if_pos hr, htx] at hidle
    cases hidle
  | false =>
    have h := plainEdge_of_step hu hp hr hs
    by_cases hb : s.fsm.busy = true
    · obtain ⟨u, heff, e⟩ := h.frameEdge_of_step hb hs
      have hfsm := e.fsm.symm.trans htx
      cases heff with
      | fillLast c hf hc hi => exact ⟨hf, hi, rfl⟩
      | waitBounded | waitUnbounded => cases e.armed.symm.trans harmed
      | rest hf | countDown hf | fillLed _ hf =>
        have hsame : s.fsm = .transmitting := hfsm
        simp [hsame] at hf
      | beginFilling | complete | timeOut | endDelay => cases hfsm
    · exact absurd htx (h.fsm_of_rest_step (idle_or_fault_of_not_busy hb) hs).2

end Sys2Proof.Machine
end

section
/-! PROOFS. The lane: the outputs it is given, the frames it takes, and its busy bit (R51, R230 to R234, R301); and the result
of a show in `STATUS` (R237). -/

namespace Sys2Proof.Machine

/-! ### Outputs -/

/-- `tx_count` holds `BUF_LEN` without wrapping (R6, R51). -/
theorem toNat_txCount (s : State) : (laneOut s).txCount.toNat = 12 * s.params.nLeds := by
  have := s.params.nLeds_range
  exact Nat.mod_eq_of_lt (show 12 * s.params.nLeds < 2 ^ 32 by omega)

/-- Settles O34: the outputs but `tx_count` are R51's own. -/
theorem laneOutputs : Obligations.LaneOutputs := fun s =>
  ⟨txStart_iff s, rfl, rfl, toNat_txCount s, rfl, rfl, rfl⟩

/-! ### Frames -/

/-- At an edge of a block that has been reset, a reset edge too, the lane takes a frame where `tx_start` is driven. -/
theorem frames_of_step {s s' : State} (hu : s.world.up = true) (hp : (currentPeriod s).powerLoss = false)
    (hs : step s = .next s') :
    s'.world.frames = if s.txStart then deliveredFrame s :: s.world.frames else s.world.frames := by
  rcases step_cases hs with ⟨hp', -⟩ | ⟨-, -, -, -, rfl⟩ | ⟨-, hu', -⟩ | ⟨-, -, -, t, u, ht, -, rfl⟩
  · cases hp.symm.trans hp'
  · exact endWorld_frames _ (currentPeriod s) _
  · cases hu.symm.trans hu'
  · exact (endWorld_frames ..).trans (by rw [(hostHalf_effect ht).frames_eq]; rfl)

@[simp] theorem length_deliveredFrame (s : State) : (deliveredFrame s).length = s.params.bufLen := by
  simp [deliveredFrame]

/-- A byte that has been written is delivered as it stands in `buf`. -/
theorem getElem?_deliveredFrame {s : State} {k : Nat} (hk : k < s.params.bufLen) (h : (s.buf.read? k).isSome = true) :
    (deliveredFrame s)[k]? = s.buf.read? k := by
  obtain ⟨v, hv⟩ := Option.isSome_iff_exists.1 h
  simp [deliveredFrame, hk, laneByte_of_read? hv, hv]

/-- Settles O35: in `TRANSMITTING` the invariant has every byte written. -/
theorem deliveredFrameIsBuffer : Obligations.DeliveredFrameIsBuffer := by
  intro s s' hinv hu hp hs
  have hframes := frames_of_step hu hp hs
  refine ⟨fun ht => ⟨deliveredFrame s, hframes.trans (if_pos ht), length_deliveredFrame s, fun k hk => ?_⟩,
    fun hn => hframes.trans (if_neg (Bool.eq_false_iff.1 hn))⟩
  have hsome := hinv.wholeInTransmitting ((txStart_iff s).1 ht).1 k hk
  exact ⟨getElem?_deliveredFrame hk hsome, hsome⟩

/-! ### The busy bit and the mark of a broken lane -/

theorem HostEffect.laneBusy_eq {s t : State} (h : HostEffect s t) : t.world.laneBusy = s.world.laneBusy := by
  cases h <;> rfl

/-- The lane's bit after a period with an edge or without one. -/
theorem laneBusy_of_step {s s' : State} (hs : step s = .next s') :
    s'.world.laneBusy = ((s.world.up && !(currentPeriod s).powerLoss && s.txStart)
      || (laneRunning s (currentPeriod s) && !txDone s (currentPeriod s))) := by
  rcases step_cases hs with ⟨hp, rfl⟩ | ⟨hp, hu, -, -, rfl⟩ | ⟨hp, hu, -, rfl⟩ | ⟨hp, hu, -, t, u, ht, -, rfl⟩
  · simp [hp, losePower]
  · simp only [hp, hu, resetEdge, endWorld_laneBusy, beginPeriod_txStart, beginPeriod_world_laneBusy, Bool.not_false,
      Bool.and_self, Bool.true_and]
  · simp [hu, firstResetEdge]
  · simp [hp, hu, (hostHalf_effect ht).laneBusy_eq]

theorem laneBroken_of_step {s s' : State} (hs : step s = .next s') :
    s'.world.marks.laneBroken
      = (s.world.marks.laneBroken || (txDone s (currentPeriod s) && !laneRunning s (currentPeriod s))) := by
  rcases step_cases hs with ⟨-, rfl⟩ | ⟨-, -, -, -, rfl⟩ | ⟨-, -, -, rfl⟩ | ⟨-, -, -, t, u, ht, -, rfl⟩
  · rfl
  · simp only [resetEdge, endWorld_marks]
    rfl
  · rfl
  · simp only [endWorld_marks]
    exact (hostHalf_effect ht).laneBroken_eq

/-- Settles O56: the two bits are the Boolean equations above, and a draw is high only while the lane runs. -/
theorem laneBusyFollowsTransfer : Obligations.LaneBusyFollowsTransfer := by
  intro s s' hs
  refine ⟨?_, ?_, fun h => ?_, fun h => ?_, fun h ht => ?_⟩
  · simp [laneBusy_of_step hs, laneRunning, and_assoc]
  · simp [laneBroken_of_step hs, laneRunning, Bool.not_and]
  · simp [txDone, Draw.level, h]
  · simp [txDone, Draw.level, h]
  · simp only [txDone, Draw.level, h, laneRunning, Bool.and_eq_true, Bool.not_eq_true'] at ht
    exact ht.1

/-! ### The result of a show -/

theorem code_eq_zero_iff (d : FrameState) : d.code = 0#3 ↔ d = .idle := by cases d <;> decide

theorem showResult_statusWord (s : State) : showResult (statusWord s) =
    if s.fsm ≠ .idle ∧ s.fsm ≠ .fault then .inProgress else if s.fsm = .idle then .succeeded else .timedOut := by
  simp only [showResult, getLsbD_statusWord_busy, extractLsb'_statusWord_state, code_eq_zero_iff]

/-- Settles O54, state by state. -/
theorem showResultReadsStatus : Obligations.ShowResultReadsStatus := by
  intro s
  rw [showResult_statusWord]
  cases s.fsm <;> decide

end Sys2Proof.Machine
end

section
/-! PROOFS. Undisturbed runs: their states step after step, and how long each frame state lasts (R223 to R226, R228, R229). -/

namespace Sys2Proof.Machine

/-! ### Runs -/

theorem runSteps_add {s x : State} {m : Nat} (h : runSteps m s = .next x) (n : Nat) :
    runSteps (m + n) s = runSteps n x := by
  induction m generalizing s with
  | zero =>
    cases h
    rw [Nat.zero_add]
  | succ m ih =>
    cases hs : step s with
    | next y =>
      rw [runSteps_succ_of_step m hs] at h
      rw [Nat.succ_add, runSteps_succ_of_step (m + n) hs, ih h]
    | fault f => simp [runSteps, hs] at h
    | refused r => simp [runSteps, hs] at h

theorem runSteps_one {s x : State} (h : step s = .next x) : runSteps 1 s = .next x := runSteps_succ_of_step 0 h

theorem params_of_step {s s' : State} (h : step s = .next s') : s'.params = s.params := by
  rcases step_cases h with ⟨-, rfl⟩ | ⟨-, -, -, -, rfl⟩ | ⟨-, -, -, rfl⟩ | ⟨-, -, -, t, u, ht, -, rfl⟩
  · rfl
  · rfl
  · rfl
  · exact (hostHalf_effect ht).params_eq

/-- The undisturbed run from `s` is at `x` after `n` steps. -/
structure RunsTo (s : State) (n : Nat) (x : State) : Prop where
  run : runSteps n s = .next x
  undisturbed : Undisturbed x
  env : x.world.env = s.world.env.drop n
  params : x.params = s.params
  inv : s.Inv → x.Inv

theorem RunsTo.refl {s : State} (h : Undisturbed s) : RunsTo s 0 s := ⟨rfl, h, rfl, rfl, id⟩

theorem RunsTo.trans {s x y : State} {m n : Nat} (hx : RunsTo s m x) (hy : RunsTo x n y) : RunsTo s (m + n) y where
  run := (runSteps_add hx.run n).trans hy.run
  undisturbed := hy.undisturbed
  env := by rw [hy.env, hx.env, List.drop_drop]
  params := hy.params.trans hx.params
  inv h := hy.inv (hx.inv h)

theorem RunsTo.of_step {s x : State} (h : Undisturbed s) (hs : step s = .next x) : RunsTo s 1 x where
  run := runSteps_one hs
  undisturbed := h.of_step hs
  env := by
    obtain ⟨-, henv, -⟩ := h.plainEdge.world_of_step hs
    rw [henv, List.drop_one]
  params := params_of_step hs
  inv hinv := invariantKeptByStep s x hinv hs

theorem RunsTo.step {s x y : State} {n : Nat} (hx : RunsTo s n x) (hs : Machine.step x = .next y) :
    RunsTo s (n + 1) y :=
  hx.trans (.of_step hx.undisturbed hs)

/-- What each of `n` edges keeps, counted from the start, holds after every one of them. -/
theorem Undisturbed.iterate {P : Nat → State → Prop} {s : State} {n : Nat} (hu : Undisturbed s) (h0 : P 0 s)
    (hstep : ∀ j < n, ∀ y, RunsTo s j y → P j y → ∃ z, step y = .next z ∧ P (j + 1) z) :
    ∀ j ≤ n, ∃ y, RunsTo s j y ∧ P j y := by
  intro j
  induction j with
  | zero => exact fun _ => ⟨s, .refl hu, h0⟩
  | succ j ih =>
    intro hj
    obtain ⟨y, hy, hP⟩ := ih (Nat.le_of_succ_le hj)
    obtain ⟨z, hz, hP'⟩ := hstep j hj y hy hP
    exact ⟨z, hy.step hz, hP'⟩

/-- From `x` to `y` nothing was delivered and no timeout was reported. -/
structure Silent (x y : State) : Prop where
  frames : y.world.frames = x.world.frames
  tmo : y.err.tmo = true → x.err.tmo = true

theorem Silent.refl (x : State) : Silent x x := ⟨rfl, id⟩

theorem Silent.trans {x y z : State} (h : Silent x y) (h' : Silent y z) : Silent x z :=
  ⟨h'.frames.trans h.frames, fun ht => h.tmo (h'.tmo ht)⟩

theorem Undisturbed.frames_of_step {s s' : State} (h : Undisturbed s) (hs : step s = .next s') :
    s'.world.frames = if s.txStart then deliveredFrame s :: s.world.frames else s.world.frames :=
  Machine.frames_of_step h.up h.currentPeriod_quiet.2 hs

theorem FrameEdge.silent {s s' : State} {u : FsmUpdate} (e : FrameEdge s u s') (h : Undisturbed s)
    (hf : s.fsm ≠ .transmitting) (hu : u.setTo = false) : Silent s s' where
  frames := by rw [h.frames_of_step e.step_eq, txStart_eq_false hf, if_neg Bool.false_ne_true]
  tmo := e.tmo_kept hu

/-! ### The delays -/

/-- `y` is `j` edges into the delay that `s` is in. -/
structure Counting (s : State) (j : Nat) (y : State) : Prop where
  fsm : y.fsm = s.fsm
  dly : y.dly.toNat = s.dly.toNat - j
  silent : Silent s y

theorem Undisturbed.counting {s : State} (hu : Undisturbed s) (hf : s.fsm = .preDelay ∨ s.fsm = .postDelay) :
    ∀ j ≤ s.dly.toNat, ∃ y, RunsTo s j y ∧ Counting s j y := by
  refine hu.iterate ⟨rfl, rfl, .refl s⟩ fun j hj y hy hc => ?_
  have hfy : y.fsm = .preDelay ∨ y.fsm = .postDelay := hc.fsm ▸ hf
  have hb : y.fsm.busy = true := by rcases hfy with h | h <;> rw [h] <;> rfl
  have hne : y.fsm ≠ .transmitting := by rcases hfy with h | h <;> rw [h] <;> nofun
  have hdly := hc.dly
  obtain ⟨z, e⟩ := hy.undisturbed.plainEdge.frameEdge hb (fsmStep_of_counting _ hfy (by bv_omega))
  refine ⟨z, e.step_eq, e.fsm.trans hc.fsm, ?_, hc.silent.trans (e.silent hy.undisturbed hne rfl)⟩
  rw [e.dly]
  simp only [Option.getD_some]
  bv_omega

theorem Undisturbed.counted_down {s : State} (hu : Undisturbed s) (hf : s.fsm = .preDelay ∨ s.fsm = .postDelay) :
    ∃ y, RunsTo s s.dly.toNat y ∧ y.fsm = s.fsm ∧ y.dly = 0#32 ∧ Silent s y := by
  obtain ⟨y, hy, hc⟩ := hu.counting hf _ (Nat.le_refl _)
  exact ⟨y, hy, hc.fsm, BitVec.eq_of_toNat_eq (hc.dly.trans (Nat.sub_self _)), hc.silent⟩

/-- `PRE_DELAY` is left for `FILLING` at the edge at which `dly` is 0 (R223). -/
theorem Undisturbed.preDelay_ends {s : State} (hu : Undisturbed s) (hf : s.fsm = .preDelay) :
    ∃ z, RunsTo s (s.dly.toNat + 1) z ∧ z.fsm = .filling ∧ z.idx = 0#16 ∧ Silent s z := by
  obtain ⟨y, hy, hfsm, hd, hsilent⟩ := hu.counted_down (.inl hf)
  have hfy : y.fsm = .preDelay := hfsm.trans hf
  obtain ⟨z, e⟩ := hy.undisturbed.plainEdge.frameEdge (congrArg FrameState.busy hfy) (fsmStep_of_preDelay_end _ hfy hd)
  exact ⟨z, hy.step e.step_eq, e.fsm, e.idx, hsilent.trans (e.silent hy.undisturbed (by simp [hfy]) rfl)⟩

/-- `POST_DELAY` is left for `IDLE` at the edge at which `dly` is 0 (R226). -/
theorem Undisturbed.postDelay_ends {s : State} (hu : Undisturbed s) (hf : s.fsm = .postDelay) :
    ∃ z, RunsTo s (s.dly.toNat + 1) z ∧ z.fsm = .idle ∧ Silent s z := by
  obtain ⟨y, hy, hfsm, hd, hsilent⟩ := hu.counted_down (.inr hf)
  have hfy : y.fsm = .postDelay := hfsm.trans hf
  obtain ⟨z, e⟩ := hy.undisturbed.plainEdge.frameEdge (congrArg FrameState.busy hfy) (fsmStep_of_postDelay_end _ hfy hd)
  exact ⟨z, hy.step e.step_eq, e.fsm, hsilent.trans (e.silent hy.undisturbed (by simp [hfy]) rfl)⟩

/-- Settles O47: `dly` is counted down to 0, and the edge that finds it 0 leaves the state. -/
theorem delaysLastTicks : Obligations.DelaysLastTicks := by
  intro s hu hf
  refine ⟨fun k hk => ?_, ?_⟩
  · obtain ⟨y, hy, hc⟩ := hu.counting hf k hk
    exact ⟨y, hy.run, hc.fsm, hc.dly⟩
  · rcases hf with hf | hf
    · obtain ⟨z, hz, hfz, hidx, -⟩ := hu.preDelay_ends hf
      exact ⟨z, hz.run, fun _ => ⟨hfz, hidx⟩, fun hx => nomatch hf.symm.trans hx⟩
    · obtain ⟨z, hz, hfz, -⟩ := hu.postDelay_ends hf
      exact ⟨z, hz.run, fun hx => (nomatch hf.symm.trans hx), fun _ => hfz⟩

/-! ### `FILLING` -/

/-- LED `i` stands in the buffer of `y` as the table had it `n` steps after `s` (R80 item 3, R224). -/
def LedStands (s : State) (n i : Nat) (y : State) : Prop :=
  ∃ x e, runSteps n s = .next x ∧ x.table[i]? = some e ∧ ∀ m < 12, y.buf.read? (12 * i + m) = (encLed e)[m]?

/-- `y` is `j` edges into the `FILLING` that `s` is in. -/
structure FillingAfter (s : State) (j : Nat) (y : State) : Prop where
  fsm : y.fsm = .filling
  idx : y.idx.toNat = s.idx.toNat + j
  silent : Silent s y
  leds : ∀ i < j, LedStands s i (s.idx.toNat + i) y

/-- One more LED encoded: the earlier ones keep their bytes. -/
theorem FillingAfter.leds_succ {s y z : State} {j : Nat} {e : Color} (h : FillingAfter s j y) (hy : runSteps j s = .next y)
    (he : y.table[y.idx.toNat]? = some e) (hz : z.buf = y.buf.writeAll (bytesAt (12 * y.idx.toNat) (encLed e))) :
    ∀ i < j + 1, LedStands s i (s.idx.toNat + i) z := by
  intro i hi
  rcases Nat.lt_succ_iff_lt_or_eq.1 hi with hlt | rfl
  · obtain ⟨x, c, hx, hc, hbytes⟩ := h.leds i hlt
    refine ⟨x, c, hx, hc, fun m hm => ?_⟩
    rw [hz, Memory.read?_writeLed_other _ _ _ (by rw [h.idx]; omega)]
    exact hbytes m hm
  · rw [← h.idx]
    refine ⟨y, e, hy, he, fun m hm => ?_⟩
    rw [hz, Memory.read?_writeLed _ _ _ hm]

theorem Undisturbed.filling {s : State} (hu : Undisturbed s) (hinv : s.Inv) (hf : s.fsm = .filling) :
    ∀ j ≤ s.params.nLeds - 1 - s.idx.toNat, ∃ y, RunsTo s j y ∧ FillingAfter s j y := by
  refine hu.iterate ⟨hf, rfl, .refl s, nofun⟩ fun j hj y hy hc => ?_
  obtain ⟨e, he⟩ := (hy.inv hinv).exists_entry
  have hidx := hc.idx
  have hi : y.idx.toNat ≠ y.params.nLeds - 1 := by
    rw [hy.params]
    omega
  obtain ⟨z, x⟩ := hy.undisturbed.plainEdge.frameEdge (congrArg FrameState.busy hc.fsm)
    (fsmStep_of_fill_next _ hc.fsm he hi)
  refine ⟨z, x.step_eq, x.fsm.trans hc.fsm, ?_,
    hc.silent.trans (x.silent hy.undisturbed (by simp [hc.fsm]) rfl), hc.leds_succ hy.run he x.buf⟩
  calc z.idx.toNat = (y.idx + 1#16).toNat := congrArg _ x.idx
    _ = y.idx.toNat + 1 := (hy.inv hinv).toNat_idx_succ
    _ = s.idx.toNat + (j + 1) := by rw [hidx, Nat.add_assoc]

/-- `FILLING` is left for `TRANSMITTING` at the edge that encodes the last LED (R224). -/
theorem Undisturbed.filling_ends {s : State} (hu : Undisturbed s) (hinv : s.Inv) (hf : s.fsm = .filling) :
    ∃ z, RunsTo s (s.params.nLeds - s.idx.toNat) z ∧ z.fsm = .transmitting ∧ z.armed = false ∧ Silent s z
      ∧ ∀ i < s.params.nLeds - s.idx.toNat, LedStands s i (s.idx.toNat + i) z := by
  obtain ⟨y, hy, hc⟩ := hu.filling hinv hf _ (Nat.le_refl _)
  obtain ⟨e, he⟩ := (hy.inv hinv).exists_entry
  have hlt := hinv.idxInTable
  have hi : y.idx.toNat = y.params.nLeds - 1 := by
    rw [hc.idx, hy.params]
    omega
  have hlast : s.params.nLeds - s.idx.toNat = s.params.nLeds - 1 - s.idx.toNat + 1 := by omega
  obtain ⟨z, x⟩ := hy.undisturbed.plainEdge.frameEdge (congrArg FrameState.busy hc.fsm)
    (fsmStep_of_fill_last _ hc.fsm he hi)
  rw [hlast]
  exact ⟨z, hy.step x.step_eq, x.fsm, x.armed, hc.silent.trans (x.silent hy.undisturbed (by simp [hc.fsm]) rfl),
    hc.leds_succ hy.run he x.buf⟩

/-- Settles O48: one LED an edge up to the last one, whose edge leaves the state. -/
theorem fillingLastsLeds : Obligations.FillingLastsLeds := by
  intro s hinv hu hf
  refine ⟨fun k hk => ?_, ?_⟩
  · obtain ⟨y, hy, hc⟩ := hu.filling hinv hf k (by omega)
    exact ⟨y, hy.run, hc.fsm, hc.idx⟩
  · obtain ⟨z, hz, hfz, harmed, -⟩ := hu.filling_ends hinv hf
    exact ⟨z, hz.run, hfz, harmed⟩

/-! ### `TRANSMITTING` -/

/-- No completion is honoured at the first `n` edges from `s`: `tx_done` is low at each that could (R225, R229). -/
def NoneHonoured (s : State) (n : Nat) : Prop :=
  ∀ j < n, (0 < j ∨ s.armed = true) → ∃ p, s.world.env[j]? = some p ∧ p.tx = .low

/-- `y` is `j` edges of waiting into the `TRANSMITTING` that `s` is in. -/
structure WaitingAfter (s : State) (j : Nat) (y : State) : Prop where
  fsm : y.fsm = .transmitting
  toCnt : y.toCnt.toNat = s.toCnt.toNat - j
  armed : y.armed = (s.armed || decide (0 < j))
  tmo : y.err.tmo = true → s.err.tmo = true

theorem WaitingAfter.not_honoured {s y : State} {j n : Nat} (h : WaitingAfter s j y) (hy : RunsTo s j y)
    (hno : NoneHonoured s n) (hj : j < n) : (y.armed && txDone y (currentPeriod y)) = false := by
  cases ha : y.armed with
  | false => rfl
  | true =>
    have harmed : 0 < j ∨ s.armed = true := by
      simpa [ha, or_comm] using h.armed
    obtain ⟨p, hp, hlow⟩ := hno j hj harmed
    refine txDone_of_low (p := p) ?_ hlow
    rw [hy.env, List.getElem?_drop, Nat.add_zero, hp]

/-- `n` edges short of the bound, or with no bound running, `TRANSMITTING` goes on (R225). -/
theorem Undisturbed.waiting {s : State} {n : Nat} (hu : Undisturbed s) (hf : s.fsm = .transmitting)
    (hno : NoneHonoured s n) (hc : s.toCnt.toNat = 0 ∨ n < s.toCnt.toNat) :
    ∀ j ≤ n, ∃ y, RunsTo s j y ∧ WaitingAfter s j y := by
  refine hu.iterate ⟨hf, rfl, (Bool.or_false _).symm, id⟩ fun j hj y hy hw => ?_
  have hcount := hw.toCnt
  obtain ⟨c, hrow, hdown⟩ := fsmStep_of_wait hw.fsm (hw.not_honoured hy hno hj) (by bv_omega)
  obtain ⟨z, e⟩ := hy.undisturbed.plainEdge.frameEdge (congrArg FrameState.busy hw.fsm) hrow
  refine ⟨z, e.step_eq, e.fsm.trans hw.fsm, ?_, ?_, fun ht => hw.tmo (e.tmo_kept rfl ht)⟩
  · rw [e.toCnt, hdown, hcount, Nat.sub_sub]
  · rw [e.armed]
    simp

/-- Settles O49: one edge short of the bound the state is still `TRANSMITTING`, with `to_cnt = 1`. -/
theorem timeoutAtBound : Obligations.TimeoutAtBound := by
  intro s hu hf hpos hno
  have hwait := hu.waiting (n := s.toCnt.toNat - 1) hf (fun j hj => hno j (by omega)) (by omega)
  refine ⟨fun k hk => ?_, ?_⟩
  · obtain ⟨y, hy, hw⟩ := hwait k (by omega)
    exact ⟨y, hy.run, hw.fsm⟩
  · obtain ⟨y, hy, hw⟩ := hwait _ (Nat.le_refl _)
    have hone : y.toCnt = 1#32 := BitVec.eq_of_toNat_eq (hw.toCnt.trans (Nat.sub_sub_self hpos))
    obtain ⟨z, e⟩ := hy.undisturbed.plainEdge.frameEdge (congrArg FrameState.busy hw.fsm)
      (fsmStep_of_bound hw.fsm (hw.not_honoured hy hno (by omega)) hone)
    have hz := (hy.step e.step_eq).run
    rw [Nat.sub_add_cancel hpos] at hz
    exact ⟨z, hz, e.fsm, e.tmo_of_setTo rfl⟩

end Sys2Proof.Machine
end

section
/-! PROOFS. A show from its command to its end: the frame it delivers and its timeline (R80, R224, R232, R235, R236). -/

namespace Sys2Proof.Machine

/-! ### The periods in which `BUSY` reads 1 -/

/-- `BUSY` reads 1 after each of the steps `a` to `b`. -/
def BusyOver (s : State) (a b : Nat) : Prop := ∀ k, a ≤ k → k ≤ b → ∃ x, runSteps k s = .next x ∧ x.fsm.busy = true

/-- One frame state after another. -/
theorem BusyOver.append {s x : State} {a m n : Nat} (h : BusyOver s a m) (hx : RunsTo s (m + 1) x) (h' : BusyOver x 0 n) :
    BusyOver s a (m + 1 + n) := by
  intro k hak hk
  by_cases hm : k ≤ m
  · exact h k hak hm
  · obtain ⟨y, hy, hb⟩ := h' (k - (m + 1)) (Nat.zero_le _) (by omega)
    refine ⟨y, ?_, hb⟩
    rw [← hy, ← runSteps_add hx.run, Nat.add_sub_cancel' (by omega)]

theorem Undisturbed.busy_counting {s : State} (hu : Undisturbed s) (hf : s.fsm = .preDelay ∨ s.fsm = .postDelay) :
    BusyOver s 0 s.dly.toNat := by
  intro k _ hk
  obtain ⟨y, hy, hc⟩ := hu.counting hf k hk
  refine ⟨y, hy.run, ?_⟩
  rw [hc.fsm]
  rcases hf with h | h <;> rw [h] <;> rfl

theorem Undisturbed.busy_filling {s : State} (hu : Undisturbed s) (hinv : s.Inv) (hf : s.fsm = .filling) :
    BusyOver s 0 (s.params.nLeds - 1 - s.idx.toNat) := by
  intro k _ hk
  obtain ⟨y, hy, hc⟩ := hu.filling hinv hf k hk
  exact ⟨y, hy.run, congrArg FrameState.busy hc.fsm⟩

theorem Undisturbed.busy_waiting {s : State} {n : Nat} (hu : Undisturbed s) (hf : s.fsm = .transmitting)
    (hno : NoneHonoured s n) (hc : s.toCnt.toNat = 0 ∨ n < s.toCnt.toNat) : BusyOver s 0 n := by
  intro k _ hk
  obtain ⟨y, hy, hw⟩ := hu.waiting hf hno hc k hk
  exact ⟨y, hy.run, congrArg FrameState.busy hw.fsm⟩

/-! ### The edge that accepts the `SHOW` -/

section
variable {s : State} {rest : List HostLine}

/-- `SHOW` written in `IDLE` enters `PRE_DELAY` for `T_RESET_TICKS` periods; the table stays, and the host is at the line
after it. -/
theorem Undisturbed.step_show (hu : Undisturbed s) (hf : s.fsm = .idle)
    (hprog : s.world.prog = wr .cmd 0x30000000#32 :: rest) :
    ∃ x, RunsTo s 1 x ∧ x.fsm = .preDelay ∧ x.dly.toNat = s.params.tResetTicks - 1 ∧ x.table = s.table
      ∧ x.world.prog = rest ∧ Silent s x := by
  have h := hu.plainEdge
  obtain ⟨hp, hnext⟩ := presented_progAfter_of_bus (s := s) (a := writeOf .cmd 0x30000000#32) (rest := rest)
    (currentPeriod s) (by rw [hprog]; rfl)
  have hhost := hostHalf_of_show (s := beginPeriod s (currentPeriod s)) hp hf
  have hs := step_of_halves h.up h.powered h.noReset hhost (fsmStep_of_rest (s := s) (.inl hf) _)
  rw [State.applyFsm_none] at hs
  refine ⟨_, .of_step hu hs, rfl, toNat_dlyLoad _, rfl, hnext, ?_, id⟩
  rw [hu.frames_of_step hs, txStart_eq_false (by simp [hf]), if_neg Bool.false_ne_true]

/-- From the `SHOW` to the edge that encodes the last LED: `PRE_DELAY` and `FILLING` have passed, and every LED stands in the
buffer as the table had it before its edge (R223, R224, R235). -/
theorem Undisturbed.show_transmits (hu : Undisturbed s) (hinv : s.Inv) (hf : s.fsm = .idle)
    (hprog : s.world.prog = wr .cmd 0x30000000#32 :: rest) :
    ∃ z, RunsTo s (s.params.tResetTicks + s.params.nLeds + 1) z ∧ z.fsm = .transmitting ∧ z.armed = false
      ∧ Silent s z ∧ (∀ i < s.params.nLeds, LedStands s (s.params.tResetTicks + 1 + i) i z)
      ∧ BusyOver s 1 (s.params.tResetTicks + s.params.nLeds) := by
  obtain ⟨x, hx, hfx, hdly, -, -, hsx⟩ := hu.step_show hf hprog
  obtain ⟨y, hy, hfy, hidx, hsy⟩ := hx.undisturbed.preDelay_ends hfx
  have hT := s.params.tResetTicks_range
  have hxy : RunsTo s (s.params.tResetTicks + 1) y := by
    have := hx.trans hy
    rwa [hdly, Nat.sub_add_cancel hT.1, Nat.add_comm] at this
  have hyinv := hxy.inv hinv
  have hzero : y.idx.toNat = 0 := congrArg BitVec.toNat hidx
  obtain ⟨z, hz, hfz, harmed, hsz, hleds⟩ := hy.undisturbed.filling_ends hyinv hfy
  rw [hxy.params, hzero, Nat.sub_zero] at hz hleds
  refine ⟨z, ?_, hfz, harmed, (hsx.trans hsy).trans hsz, fun i hi => ?_, ?_⟩
  · rw [Nat.add_right_comm]
    exact hxy.trans hz
  · obtain ⟨w, e, hw, he, hbytes⟩ := hleds i hi
    rw [Nat.zero_add] at he hbytes
    exact ⟨w, e, (runSteps_add hxy.run i).trans hw, he, hbytes⟩
  · have hdelay : BusyOver s 1 s.params.tResetTicks := by
      have hnone : BusyOver s 1 0 := fun k h1 h0 => absurd h1 (Nat.not_le.2 (Nat.lt_succ_of_le h0))
      have := hnone.append hx (hx.undisturbed.busy_counting (.inl hfx))
      rwa [hdly, Nat.zero_add, Nat.add_sub_cancel' hT.1] at this
    have hfill := hy.undisturbed.busy_filling hyinv hfy
    rw [hxy.params, hzero, Nat.sub_zero] at hfill
    have hN := s.params.nLeds_range
    have := hdelay.append hxy hfill
    rwa [Nat.add_assoc, Nat.add_sub_cancel' hN.1] at this

end

/-! ### A host that only reads -/

/-- No line of the program makes an access of its own choice: it reads registers, polls or idles (R107). -/
def OnlyReads (prog : List HostLine) : Prop := ∀ l ∈ prog, ∀ a, l ≠ .bus a

theorem OnlyReads.progAfter {s : State} (h : OnlyReads s.world.prog) (p : Period) : OnlyReads (progAfter s p) := by
  intro l hl
  rcases mem_progAfter hl with hl | ⟨n, rfl⟩
  · exact h l hl
  · exact fun _ => nofun

theorem OnlyReads.presented {s : State} (h : OnlyReads s.world.prog) (p : Period) :
    presented s p = none ∨ ∃ r, presented s p = some (readOf r) := by
  simp only [Machine.presented]
  split
  · rename_i a hl
    exact absurd rfl (h _ (mem_of_mem_dropEmptyIdle (List.mem_of_mem_head? hl)) a)
  · exact .inr ⟨_, rfl⟩
  · split
    · exact .inl rfl
    · exact .inr ⟨_, rfl⟩
  · exact .inl rfl
  · exact .inl rfl

/-- A read of any register leaves the table (R180). -/
theorem table_of_read {s t : State} {p : Period} {r : HostReg} (hp : presented s p = some (readOf r))
    (h : hostHalf s p = .next t) : t.table = s.table := by
  have hread : ∃ i, decodeAccess (readOf r) = .ok i ∧ ∃ v, exec i s = .next (s.pushRead v) := by
    cases r <;> exact ⟨_, rfl, _, rfl⟩
  obtain ⟨i, hi, v, hv⟩ := hread
  cases h.symm.trans ((hostHalf_of_decoded hp hi).trans hv)
  rfl

theorem OnlyReads.table_of_step {s s' : State} (h : OnlyReads s.world.prog) (hu : Undisturbed s)
    (hs : step s = .next s') : s'.table = s.table := by
  obtain ⟨t, u, ht, -, rfl⟩ := hu.plainEdge.halves_of_step hs
  rcases h.presented (currentPeriod s) with hp | ⟨r, hp⟩
  · cases ht.symm.trans (hostHalf_of_none (s := beginPeriod s (currentPeriod s)) hp)
    rfl
  · show t.table = s.table
    exact table_of_read (s := beginPeriod s (currentPeriod s)) hp ht

theorem OnlyReads.table_of_run {s x : State} {n : Nat} (h : OnlyReads s.world.prog) (hu : Undisturbed s)
    (hx : runSteps n s = .next x) : x.table = s.table := by
  induction n generalizing s with
  | zero =>
    cases hx
    rfl
  | succ n ih =>
    cases hs : step s with
    | next y =>
      obtain ⟨-, -, hprog⟩ := hu.plainEdge.world_of_step hs
      rw [runSteps_succ_of_step n hs] at hx
      exact (ih (hprog ▸ h.progAfter _) (hu.of_step hs) hx).trans (h.table_of_step hu hs)
    | fault f => simp [runSteps, hs] at hx
    | refused r => simp [runSteps, hs] at hx

/-- After a `SHOW` that only reads follow, the table is what it was. -/
theorem Undisturbed.table_of_show_run {s x : State} {rest : List HostLine} {n : Nat} (hu : Undisturbed s)
    (hf : s.fsm = .idle) (hprog : s.world.prog = wr .cmd 0x30000000#32 :: rest) (hreads : OnlyReads rest)
    (hx : runSteps (1 + n) s = .next x) : x.table = s.table := by
  obtain ⟨y, hy, -, -, htable, hrest, -⟩ := hu.step_show hf hprog
  rw [runSteps_add hy.run] at hx
  have hreads' : OnlyReads y.world.prog := hrest ▸ hreads
  exact (hreads'.table_of_run hy.undisturbed hx).trans htable

/-! ### The frame -/

theorem eq_encFrame_of_leds {f : List Byte} {t : List Color} (hlen : f.length = 12 * t.length)
    (h : ∀ i e, t[i]? = some e → ∀ j < 12, f[12 * i + j]? = (encLed e)[j]?) : f = encFrame t := by
  refine List.ext_getElem? fun k => ?_
  by_cases hk : k < 12 * t.length
  · exact getElem?_encFrame_of_leds (g := fun k => f[k]?) h k hk
  · rw [List.getElem?_eq_none (by omega), List.getElem?_eq_none (by rw [length_encFrame]; omega)]

/-- An LED that stands in the buffer is delivered so. -/
theorem LedStands.delivered {s z : State} {n i : Nat} (h : LedStands s n i z) (hinv : z.Inv) (hf : z.fsm = .transmitting)
    (hi : i < z.params.nLeds) :
    ∃ x e, runSteps n s = .next x ∧ x.table[i]? = some e ∧ ∀ m < 12, (deliveredFrame z)[12 * i + m]? = (encLed e)[m]? := by
  obtain ⟨x, e, hx, he, hbytes⟩ := h
  refine ⟨x, e, hx, he, fun m hm => ?_⟩
  have hk : 12 * i + m < z.params.bufLen := by
    simp only [Params.bufLen]
    omega
  exact (getElem?_deliveredFrame hk (hinv.wholeInTransmitting hf _ hk)).trans (hbytes m hm)

/-- Settles O52: the frame is the buffer that `FILLING` leaves, and where the host only reads, the table is the same before
every edge of it. -/
theorem showDeliversEncFrame : Obligations.ShowDeliversEncFrame := by
  intro s rest hinv hu hf hprog
  obtain ⟨z, hz, hfz, harmed, hsilent, hleds, -⟩ := hu.show_transmits hinv hf hprog
  obtain ⟨s', hs'⟩ := (hz.inv hinv).step_next hz.undisturbed.up hz.undisturbed.currentPeriod_quiet.2
    fun _ => hz.undisturbed.flaw_presented
  have hframes : s'.world.frames = deliveredFrame z :: s.world.frames := by
    rw [hz.undisturbed.frames_of_step hs', if_pos ((txStart_iff z).2 ⟨hfz, harmed⟩), hsilent.frames]
  have hlen : (deliveredFrame z).length = s.params.bufLen := by rw [length_deliveredFrame, hz.params]
  have hled := fun i hi => (hleds i hi).delivered (hz.inv hinv) hfz (hz.params ▸ hi)
  refine ⟨s', _, (hz.step hs').run, hframes, hlen, hled, fun hreads => ?_⟩
  refine eq_encFrame_of_leds (by rw [hlen, hinv.tableLength]; rfl) fun i e he => ?_
  obtain ⟨x, c, hx, hc, hbytes⟩ := hled i (hinv.tableLength ▸ (List.getElem?_eq_some_iff.1 he).1)
  rw [Nat.add_right_comm, Nat.add_comm _ 1] at hx
  rw [hu.table_of_show_run hf hprog hreads hx, he] at hc
  cases hc
  exact hbytes

/-! ### The timeline -/

theorem currentPeriod_of_env {s : State} {p : Period} (h : s.world.env[0]? = some p) : currentPeriod s = p := by
  rw [currentPeriod, List.headD_eq_head?_getD, List.head?_eq_getElem?, h, Option.getD_some]

theorem txDone_of_high {s : State} {p : Period} (h : s.world.env[0]? = some p) (hh : p.tx = .high) :
    txDone s (currentPeriod s) = true := by
  rw [currentPeriod_of_env h, txDone, hh]
  rfl

/-- After `n` edges of waiting a completion is honoured, the bound not having been reached (R225). -/
theorem Undisturbed.completes {s : State} {n : Nat} {p : Period} (hu : Undisturbed s) (hf : s.fsm = .transmitting)
    (hno : NoneHonoured s n) (hc : s.toCnt.toNat = 0 ∨ n < s.toCnt.toNat) (hn : 0 < n)
    (hp : s.world.env[n]? = some p) (hhigh : p.tx = .high) :
    ∃ z, RunsTo s (n + 1) z ∧ z.fsm = .postDelay ∧ z.dly.toNat = s.params.tResetTicks - 1
      ∧ (z.err.tmo = true → s.err.tmo = true) := by
  obtain ⟨y, hy, hw⟩ := hu.waiting hf hno hc n (Nat.le_refl n)
  have harmed : y.armed = true := by rw [hw.armed, decide_eq_true hn, Bool.or_true]
  have hdone : txDone y (currentPeriod y) = true :=
    txDone_of_high (by rw [hy.env, List.getElem?_drop, Nat.add_zero, hp]) hhigh
  obtain ⟨z, e⟩ := hy.undisturbed.plainEdge.frameEdge (congrArg FrameState.busy hw.fsm)
    (fsmStep_of_complete hw.fsm (by rw [harmed, hdone]; rfl))
  refine ⟨z, hy.step e.step_eq, e.fsm, ?_, fun ht => hw.tmo (e.tmo_kept rfl ht)⟩
  rw [← hy.params, ← toNat_dlyLoad]
  exact congrArg BitVec.toNat e.dly

/-- Settles O53: `PRE_DELAY`, `FILLING`, the edges of waiting and `POST_DELAY` one after another. -/
theorem successfulShowTimeline : Obligations.SuccessfulShowTimeline := by
  intro s rest j hinv hu hf hprog hj hbound hlow ⟨p, hp, hhigh⟩
  have hT := s.params.tResetTicks_range
  obtain ⟨z, hz, hfz, harmed, hsilent, -, hbusy⟩ := hu.show_transmits hinv hf hprog
  have hno : NoneHonoured z (j - 1) := fun i hi hpos => by
    rw [hz.env, List.getElem?_drop]
    exact hlow _ (by simp only [harmed, Bool.false_eq_true, or_false] at hpos; omega) (by omega)
  have hcount : z.toCnt.toNat = 0 ∨ j - 1 < z.toCnt.toNat :=
    (hbound z hz.run).imp (congrArg BitVec.toNat) fun hle => by omega
  have hzp : z.world.env[j - 1]? = some p := by
    rw [hz.env, List.getElem?_drop, ← hp]
    congr 1
    omega
  obtain ⟨w, hw, hfw, hdly, htmo⟩ := hz.undisturbed.completes hfz hno hcount (by omega) hzp hhigh
  have hsw := hz.trans hw
  obtain ⟨v, hv, hfv, hsv⟩ := hw.undisturbed.postDelay_ends hfw
  have hwait := hbusy.append hz (hz.undisturbed.busy_waiting hfz hno hcount)
  have hall := hwait.append hsw (hw.undisturbed.busy_counting (.inr hfw))
  rw [hdly, hz.params] at hall hv
  refine ⟨fun k h1 hk => ?_, v, ?_, hfv, fun ht => hsilent.tmo (htmo (hsv.tmo ht))⟩
  · obtain ⟨x, hx, hb⟩ := hall k h1 (by omega)
    exact ⟨x, hx, (getLsbD_statusWord_busy x).2 ((busy_iff x.fsm).1 hb)⟩
  · rw [← (hsw.trans hv).run]
    congr 1
    omega

end Sys2Proof.Machine
end

section
/-! PROOFS. The error flags at an edge: what a command and the bound request, and how the requests meet (R270 to R273, R276). -/

namespace Sys2Proof.Machine

/-! ### What a command requests -/

/-- The requests on the flags that a write of `w` to `CMD` makes (R194, R196, R198, R200). -/
def commandRequests (s : State) (w : Word) : Requests where
  ill := !legalCommand w
  rng := legalCommand w && opField w == 0x1#4 && decide (s.params.nLeds ≤ (indexField w).toNat)
  rej := legalCommand w && opField w == 0x3#4 && s.fsm != .idle
  clr := legalCommand w && opField w == 0x5#4

section
variable {s t : State} {w : Word}

theorem commandRequests_of_illegal (h : legalCommand w = false) : commandRequests s w = raise .illegalCommand := by
  simp [commandRequests, h, raise]

theorem commandRequests_of_set (h : legalCommand w = true) (hop : opField w = 0x1#4) :
    commandRequests s w = if (indexField w).toNat < s.params.nLeds then {} else raise .indexRange := by
  split
  · rename_i hi
    simp [commandRequests, h, hop, Nat.not_le.2 hi]
  · rename_i hi
    simp [commandRequests, h, hop, Nat.not_lt.1 hi, raise]

theorem commandRequests_of_show (h : legalCommand w = true) (hop : opField w = 0x3#4) :
    commandRequests s w = if s.fsm = .idle then {} else raise .showRejected := by
  split
  · rename_i hf
    simp [commandRequests, h, hop, hf]
  · rename_i hf
    simp [commandRequests, h, hop, hf, raise]

theorem commandRequests_of_clrerr (h : legalCommand w = true) (hop : opField w = 0x5#4) :
    commandRequests s w = clearRequest := by
  simp [commandRequests, h, hop, clearRequest]

theorem commandRequests_of_other (h : legalCommand w = true) (h1 : opField w ≠ 0x1#4) (h3 : opField w ≠ 0x3#4)
    (h5 : opField w ≠ 0x5#4) : commandRequests s w = {} := by
  simp [commandRequests, h, h1, h3, h5]

theorem err_of_execCmdSet {index : Index} (h : execCmdSet index s = .next t) :
    t.err = s.err.update (if index.toNat < s.params.nLeds then {} else raise .indexRange) := by
  split
  · rename_i hi
    cases h.symm.trans (execCmdSet_of_lt hi)
    exact (ErrFlags.update_none _).symm
  · rename_i hi
    cases h.symm.trans (execCmdSet_of_not_lt hi)
    rfl

theorem err_of_execCmdShow (h : execCmdShow s = .next t) :
    t.err = s.err.update (if s.fsm = .idle then {} else raise .showRejected) := by
  split
  · rename_i hf
    cases h.symm.trans (execCmdShow_of_idle hf)
    exact (ErrFlags.update_none _).symm
  · rename_i hf
    cases h.symm.trans (execCmdShow_of_ne_idle hf)
    rfl

theorem err_of_execCmdRecover (h : execCmdRecover s = .next t) : t.err = s.err := by
  by_cases hf : s.fsm = .fault
  · cases h.symm.trans (execCmdRecover_of_fault hf)
    rfl
  · cases h.symm.trans (execCmdRecover_of_ne_fault hf)
    rfl

/-- `OP` of a legal word is one of the six opcodes (R104). -/
theorem opField_eq_clrerr (h : legalCommand w = true) (h0 : opField w ≠ 0x0#4) (h1 : opField w ≠ 0x1#4)
    (h2 : opField w ≠ 0x2#4) (h3 : opField w ≠ 0x3#4) (h4 : opField w ≠ 0x4#4) : opField w = 0x5#4 := by
  simp only [legalCommand, beq_false_of_ne h0, beq_false_of_ne h1, beq_false_of_ne h2, beq_false_of_ne h3,
    beq_false_of_ne h4, Bool.false_and, Bool.false_or, Bool.and_eq_true, beq_iff_eq] at h
  exact h.1

/-- `WR_CMD` does to the flags what `commandRequests` says, branch by branch of its dispatch. -/
theorem err_of_execWrCmd : execWrCmd w s = .next t → t.err = s.err.update (commandRequests s w) := by
  fun_cases execWrCmd w s
  case case1 hlegal h0 =>
    rintro ⟨⟩
    rw [commandRequests_of_other hlegal (by simp [h0]) (by simp [h0]) (by simp [h0]), ErrFlags.update_none]
  case case2 hlegal _ h1 =>
    rw [commandRequests_of_set hlegal h1]
    exact err_of_execCmdSet
  case case3 hlegal _ _ h2 =>
    rintro ⟨⟩
    rw [commandRequests_of_other hlegal (by simp [h2]) (by simp [h2]) (by simp [h2]), ErrFlags.update_none]
  case case4 hlegal _ _ _ h3 =>
    rw [commandRequests_of_show hlegal h3]
    exact err_of_execCmdShow
  case case5 hlegal _ _ _ _ h4 =>
    rw [commandRequests_of_other hlegal (by simp [h4]) (by simp [h4]) (by simp [h4]), ErrFlags.update_none]
    exact err_of_execCmdRecover
  case case6 hlegal h0 h1 h2 h3 h4 =>
    rintro ⟨⟩
    rw [commandRequests_of_clrerr hlegal (opField_eq_clrerr hlegal h0 h1 h2 h3 h4)]
    rfl
  case case7 hlegal =>
    rintro ⟨⟩
    rw [commandRequests_of_illegal (Bool.eq_false_iff.2 hlegal)]
    rfl

end

/-- Settles O18: the requests of a word, in the order of R273, met by flags that are all clear. -/
theorem oneErrorPerCommand : Obligations.OneErrorPerCommand := by
  intro w s t hs ht
  have herr : t.err = ErrFlags.clear.update (commandRequests s w) := hs ▸ err_of_execWrCmd ht
  refine ⟨fun hl => ?_, fun hl hop (hi : _ ≤ (indexField w).toNat) => ?_, fun hl hop hf => ?_,
    fun hl (hset : _ → (indexField w).toNat < _) hshow => ?_⟩
  · rw [herr, commandRequests_of_illegal hl]
    rfl
  · rw [herr, commandRequests_of_set hl hop, if_neg (Nat.not_lt.2 hi)]
    rfl
  · rw [herr, commandRequests_of_show hl hop, if_neg hf]
    rfl
  · by_cases h1 : opField w = 0x1#4
    · rw [herr, commandRequests_of_set hl h1, if_pos (hset h1)]
      rfl
    by_cases h3 : opField w = 0x3#4
    · rw [herr, commandRequests_of_show hl h3, if_pos (hshow h3)]
      rfl
    by_cases h5 : opField w = 0x5#4
    · rw [herr, commandRequests_of_clrerr hl h5]
      rfl
    · rw [herr, commandRequests_of_other hl h1 h3 h5]
      rfl

/-! ### The words of the commands -/

/-- A legal word of a command other than `SET` is its opcode and 28 zeros (R104, R105). -/
theorem legal_op_iff {op : BitVec 4} (w : Word) (hset : op ≠ 0x1#4) (hlegal : legalCommand (op ++ 0#28) = true) :
    legalCommand w = true ∧ opField w = op ↔ w = op ++ 0#28 := by
  constructor
  · rintro ⟨hl, rfl⟩
    rw [legalCommand, beq_false_of_ne hset, Bool.false_and, Bool.false_or, Bool.and_eq_true, beq_iff_eq] at hl
    exact (eq_op_iff w _).2 ⟨rfl, hl.2⟩
  · rintro rfl
    exact ⟨hlegal, BitVec.extractLsb'_append_eq_left⟩

theorem legal_show_iff (w : Word) : legalCommand w = true ∧ opField w = 0x3#4 ↔ w = 0x30000000#32 :=
  legal_op_iff w (by decide) rfl

theorem legal_clrerr_iff (w : Word) : legalCommand w = true ∧ opField w = 0x5#4 ↔ w = 0x50000000#32 :=
  legal_op_iff w (by decide) rfl

theorem legal_set_iff (w : Word) : legalCommand w = true ∧ opField w = 0x1#4 ↔ w = 0x1000#16 ++ indexField w := by
  constructor
  · rintro ⟨hl, hop⟩
    have hrsvd : rsvdField w = 0#12 := by simpa [legalCommand, hop] using hl
    have hhigh : 0x1000#16 = opField w ++ rsvdField w := by rw [hop, hrsvd]; rfl
    rw [hhigh, fields_append]
  · intro h
    have hop : opField w = 0x1#4 := h ▸ opField_append ..
    have hrsvd : rsvdField w = 0#12 := h ▸ rsvdField_append ..
    exact ⟨by simp [legalCommand, hop, hrsvd], hop⟩

/-! ### What the host's half requests -/

/-- `r` is what the host requests in the period `p`: each request by its cause (R271, R272). -/
structure HostRequests (s : State) (p : Period) (r : Requests) : Prop where
  ill : r.ill = true ↔ ∃ w, presented s p = some (writeOf .cmd w) ∧ legalCommand w = false
  rng : r.rng = true ↔
    ∃ index : Index, presented s p = some (writeOf .cmd (0x1000#16 ++ index)) ∧ s.params.nLeds ≤ index.toNat
  rej : r.rej = true ↔ presented s p = some (writeOf .cmd 0x30000000#32) ∧ s.fsm ≠ .idle
  tmo : r.tmo = false
  clr : r.clr = true ↔ presented s p = some (writeOf .cmd 0x50000000#32)

theorem writeOf_cmd_inj {v w : Word} : some (writeOf .cmd v) = some (writeOf .cmd w) ↔ v = w :=
  ⟨fun h => congrArg BusAccess.wdata (Option.some.inj h), fun h => h ▸ rfl⟩

theorem hostRequests_of_write {s : State} {p : Period} {w : Word} (h : presented s p = some (writeOf .cmd w)) :
    HostRequests s p (commandRequests s w) where
  ill := by simp only [h, writeOf_cmd_inj, commandRequests, Bool.not_eq_true', exists_eq_left']
  rng := by
    simp only [h, writeOf_cmd_inj, commandRequests, Bool.and_eq_true, beq_iff_eq, decide_eq_true_eq, legal_set_iff]
    constructor
    · rintro ⟨hw, hi⟩
      exact ⟨_, hw, hi⟩
    · rintro ⟨index, rfl, hi⟩
      rw [indexField_append]
      exact ⟨rfl, hi⟩
  rej := by
    simp only [h, writeOf_cmd_inj, commandRequests, Bool.and_eq_true, beq_iff_eq, bne_iff_ne, legal_show_iff]
  tmo := rfl
  clr := by simp only [h, writeOf_cmd_inj, commandRequests, Bool.and_eq_true, beq_iff_eq, legal_clrerr_iff]

theorem hostRequests_of_no_write {s : State} {p : Period} (h : ∀ w, presented s p ≠ some (writeOf .cmd w)) :
    HostRequests s p {} := by
  constructor <;> simp [h]

/-- No access but a write to `CMD` touches a flag (R270). -/
theorem err_of_exec_decodeBtc {code : BitVec 4} {v : Word} {s t : State} (hc : code ≠ 0b1000#4) :
    exec (decodeBtc code v) s = .next t → t.err = s.err := by
  fun_cases decodeBtc code v
  case case9 hcode => exact absurd hcode hc
  all_goals
    rintro ⟨⟩
    rfl

theorem err_of_hostHalf_no_write {s t : State} {p : Period} (h : hostHalf s p = .next t)
    (hw : ∀ w, presented s p ≠ some (writeOf .cmd w)) : t.err = s.err := by
  rcases hostHalf_cases h with ⟨-, rfl⟩ | ⟨a, i, ha, hi, ht⟩
  · rfl
  · have hflaw : a.flaw = none := (decodes_iff_conforming a).1 ⟨i, hi⟩
    cases (decodeAccess_of_conforming hflaw).symm.trans hi
    exact err_of_exec_decodeBtc (fun hc => hw a.wdata (ha.trans (congrArg some (eq_writeOf_cmd hflaw hc)))) ht

/-- The host's half updates the flags by the requests of its access. -/
theorem hostHalf_requests {s t : State} {p : Period} (h : hostHalf s p = .next t) :
    ∃ r, HostRequests s p r ∧ t.err = s.err.update r := by
  by_cases hw : ∃ w, presented s p = some (writeOf .cmd w)
  · obtain ⟨w, hw⟩ := hw
    exact ⟨_, hostRequests_of_write hw, err_of_execWrCmd ((hostHalf_of_write_cmd hw).symm.trans h)⟩
  · have hw' := not_exists.1 hw
    exact ⟨{}, hostRequests_of_no_write hw',
      (err_of_hostHalf_no_write h hw').trans (ErrFlags.update_none _).symm⟩

/-! ### The edge -/

/-- The state machine requests `err_to` exactly at the bound without completion (R225, R271). -/
theorem setTo_iff {s : State} {done : Bool} {u : FsmUpdate} (hu : fsmStep s done = .ok u) :
    u.setTo = true ↔ s.fsm = .transmitting ∧ (s.armed && done) = false ∧ s.toCnt = 1#32 := by
  constructor
  · intro hs
    cases fsmEffect_of_fsmStep hu with
    | timeOut hf hd hc => exact ⟨hf, hd, hc⟩
    | _ => cases hs
  · rintro ⟨hf, hd, hc⟩
    cases hu.symm.trans (fsmStep_of_bound hf hd hc)
    rfl

/-- The flags after a plain edge: the requests of the host's half, then that of the state machine's. The lane's part at the
start of the period changes no cause. -/
theorem PlainEdge.err_of_step {s s' : State} (h : PlainEdge s) (hs : step s = .next s') :
    ∃ r u, HostRequests s (currentPeriod s) r ∧ fsmStep s (txDone s (currentPeriod s)) = .ok u
      ∧ s'.err = (s.err.update r).update { tmo := u.setTo } := by
  obtain ⟨t, u, ht, hu, rfl⟩ := h.halves_of_step hs
  obtain ⟨r, hr, herr⟩ := hostHalf_requests ht
  exact ⟨r, u, ⟨hr.ill, hr.rng, hr.rej, hr.tmo, hr.clr⟩, hu, congrArg (ErrFlags.update · _) herr⟩

/-- A flag is set by a request, or kept where no clear is requested (R272). -/
theorem flag_iff {set flag clr : Bool} {Cause Clear : Prop} (hset : set = true ↔ Cause) (hclr : clr = true ↔ Clear) :
    (set || (flag && !clr)) = true ↔ Cause ∨ (flag = true ∧ ¬ Clear) := by
  simp [← hset, ← hclr]

/-- Settles O22: each flag by its request, the host's or, for `err_to`, the state machine's. -/
theorem flagUpdateRule : Obligations.FlagUpdateRule := by
  intro s h hinv
  obtain ⟨s', hs⟩ := hinv.step_next h.up h.powered h.conforming
  obtain ⟨r, u, hr, hu, herr⟩ := h.err_of_step hs
  rw [ErrFlags.update_tmo] at herr
  refine ⟨s', hs, ?_⟩
  rw [herr]
  refine ⟨flag_iff hr.ill hr.clr, flag_iff hr.rng hr.clr, flag_iff hr.rej hr.clr, ?_⟩
  simp only [ErrFlags.update, hr.tmo, Bool.false_or]
  exact flag_iff (setTo_iff hu) hr.clr

/-! ### The entry to `FAULT` -/

theorem State.applyFsm_takeTxTimeout (s : State) :
    s.applyFsm takeTxTimeout = { s with fsm := .fault, err := { s.err with tmo := true } } := by
  simp [State.applyFsm, takeTxTimeout]

/-- Settles O30: the host's half has nothing to do, and the state machine's asks for `takeTxTimeout`. -/
theorem timeoutEntryKeepsRest : Obligations.TimeoutEntryKeepsRest := by
  intro s h hf hd hc hp
  have ht := hostHalf_of_none (s := beginPeriod s (currentPeriod s)) hp
  refine ⟨_, step_of_halves h.up h.powered h.noReset ht (fsmStep_of_bound hf hd hc), ?_, txStart_eq_false nofun⟩
  rw [State.applyFsm_takeTxTimeout]
  rfl

end Sys2Proof.Machine
end

section
/-! PROOFS. The reset edges, the machine before the first of them (R52, R285, R300, R301; logs 5, 7), and the marks of a `SHOW`
or `RECOVER` over a running lane (R307, U10, D18; logs 8, 11). -/

namespace Sys2Proof.Machine

/-! ### The marks a host access sets -/

/-- The marks follow the state machine's moves: an accepted `SHOW`, and a `RECOVER` in `FAULT`, each with its own mark. -/
theorem HostEffect.marks_cases {s t : State} (h : HostEffect s t) :
    t.world.marks = s.world.marks
      ∨ (s.fsm = .idle ∧ t.fsm = .preDelay ∧ t.world.marks = s.markShow.world.marks)
      ∨ (s.fsm = .fault ∧ t.fsm = .postDelay ∧ t.world.marks = s.markRecover.world.marks) := by
  cases h with
  | showFrame hs => exact .inr (.inl ⟨hs, rfl, rfl⟩)
  | recover hs => exact .inr (.inr ⟨hs, rfl, rfl⟩)
  | _ => exact .inl rfl

/-- The access that moved the state machine is known by the move (R198, R199). -/
theorem hostHalf_marks_cases {s t : State} {p : Period} (h : hostHalf s p = .next t) :
    t.world.marks = s.world.marks
      ∨ (s.fsm = .idle ∧ presented s p = some (writeOf .cmd 0x30000000#32)
        ∧ t.world.marks = s.markShow.world.marks)
      ∨ (s.fsm = .fault ∧ presented s p = some (writeOf .cmd 0x40000000#32)
        ∧ t.world.marks = s.markRecover.world.marks) := by
  rcases (hostHalf_effect h).marks_cases with hm | ⟨hf, hmove, hm⟩ | ⟨hf, hmove, hm⟩
  · exact .inl hm
  · refine .inr (.inl ⟨hf, Classical.byContradiction fun hp => ?_, hm⟩)
    cases hmove.symm.trans ((fsm_of_hostHalf_idle h hf).trans (if_neg hp))
  · refine .inr (.inr ⟨hf, Classical.byContradiction fun hp => ?_, hm⟩)
    cases hmove.symm.trans ((fsm_of_hostHalf_fault h hf).trans (if_neg hp))

/-- After a step the marks are those the period began with, or the host's access has added to them; a reset edge and a period
without power add nothing. -/
theorem marks_cases_of_step {s s' : State} (hs : step s = .next s') :
    s'.world.marks = (beginPeriod s (currentPeriod s)).world.marks
      ∨ (s.fsm = .idle ∧ WritesCommand s 0x30000000#32
        ∧ s'.world.marks = (beginPeriod s (currentPeriod s)).markShow.world.marks)
      ∨ (s.fsm = .fault ∧ WritesCommand s 0x40000000#32
        ∧ s'.world.marks = (beginPeriod s (currentPeriod s)).markRecover.world.marks) := by
  rcases step_cases hs with ⟨-, rfl⟩ | ⟨-, -, -, -, rfl⟩ | ⟨-, -, -, rfl⟩ | ⟨-, -, -, t, u, ht, -, rfl⟩
  · exact .inl rfl
  · exact .inl (endWorld_marks _ (currentPeriod s) _)
  · exact .inl rfl
  · simp only [endWorld_marks]
    exact hostHalf_marks_cases ht

@[simp] theorem beginPeriod_world_marks_showBusy (s : State) (p : Period) :
    (beginPeriod s p).world.marks.showBusy = s.world.marks.showBusy := rfl
@[simp] theorem beginPeriod_world_marks_recoverBusy (s : State) (p : Period) :
    (beginPeriod s p).world.marks.recoverBusy = s.world.marks.recoverBusy := rfl

/-- Outside the frame states an edge is the host's half alone (R222, R227). -/
theorem PlainEdge.step_of_rest {s t : State} (h : PlainEdge s) (hr : s.fsm = .idle ∨ s.fsm = .fault)
    (ht : hostHalf (beginPeriod s (currentPeriod s)) (currentPeriod s) = .next t) :
    step s = .next { t with world := endWorld (beginPeriod s (currentPeriod s)) (currentPeriod s) t.world } :=
  (step_of_halves h.up h.powered h.noReset ht (fsmStep_of_rest hr _)).trans (by rw [State.applyFsm_none])

/-- Settles O57: both commands run on the state that `beginPeriod` leaves, whose busy bit is the lane's in this period, and
a step's marks are one of the three cases of `marks_cases_of_step`. -/
theorem laneOverlapMarked : Obligations.LaneOverlapMarked := by
  refine ⟨fun s h hrun hdone => ⟨fun hf hw => ?_, fun hf hw => ?_⟩, fun s s' hs => ?_⟩
  · have ht := hostHalf_of_show (s := beginPeriod s (currentPeriod s)) hw hf
    exact ⟨_, h.step_of_rest (.inl hf) ht, rfl, by simp [hrun, hdone]⟩
  · have ht := hostHalf_of_recover (s := beginPeriod s (currentPeriod s)) hw hf
    exact ⟨_, h.step_of_rest (.inr hf) ht, rfl, by simp [hrun, hdone]⟩
  · have hbroken : s.world.marks.laneBroken = true → s'.world.marks.laneBroken = true := fun hb => by
      rw [laneBroken_of_step hs, hb, Bool.true_or]
    rcases marks_cases_of_step hs with hm | ⟨hf, hw, hm⟩ | ⟨hf, hw, hm⟩
    · refine ⟨?_, ?_, hbroken, ?_, ?_⟩ <;> simp +contextual [hm]
    · refine ⟨?_, ?_, hbroken, ?_, ?_⟩ <;> simp +contextual [hm, hf, hw]
    · refine ⟨?_, ?_, hbroken, ?_, ?_⟩ <;> simp +contextual [hm, hf, hw]

/-! ### Reset -/

theorem State.black_resetBlock (s : State) : ∀ i < s.params.nLeds, s.resetBlock.table[i]? = some 0#24 :=
  fun _ hi => List.getElem?_replicate_of_lt hi

/-- Settles O37, field by field of `resetBlock`: the access and `tx_done` reach only the world. -/
theorem resetEdgeState : Obligations.ResetEdgeState := by
  intro s hu hp hr hc
  exact ⟨_, step_of_reset hu hp hr (Option.bind_eq_none_iff.2 hc), rfl, rfl, rfl, rfl, rfl, rfl, rfl, rfl,
    List.length_replicate, s.black_resetBlock, rfl, rfl, rfl⟩

/-- Settles O39: a period with power on by the level of `rst`, and a period without power. -/
theorem refusedBeforeReset : Obligations.RefusedBeforeReset := by
  refine ⟨fun s hu hp => ⟨⟨fun hs => ?_, step_of_no_reset_edge hu hp⟩, fun hr => ?_⟩,
    fun s hp => ⟨_, step_of_powerLoss hp, rfl⟩⟩
  · cases hr : (currentPeriod s).rst with
    | false => rfl
    | true => cases hs.symm.trans (step_of_first_reset hu hp hr)
  · exact ⟨_, step_of_first_reset hu hp hr, rfl, rfl, rfl, rfl, rfl, rfl, rfl, rfl, rfl,
      List.length_replicate, s.black_resetBlock, rfl, rfl, rfl⟩

end Sys2Proof.Machine
end
